-- ==== Sys2Proof/Word.lean ====
section
/-!
DEFINITION. The word of the machine and the register index.
R7, R9 (00_scope.md): every data value, register, memory cell, immediate and address is a 32-bit
pattern; data values are read as two's-complement integers (`BitVec.toInt`), addresses of the
instruction space as unsigned integers (`BitVec.toNat`).
-/

namespace Sys2Proof

/-- A 32-bit pattern (R7, `XLEN` = 32). -/
abbrev Word := BitVec 32

/-- A register index 0..15, naming R0..R15 (R20, R83: `NREGS` = 16). -/
abbrev Reg := Fin 16

end Sys2Proof
end

