-- ==== Sys2Proof/Config.lean ====
section
/-!
DEFINITION. The implementation parameters of R7 (00_scope.md) that are not the program itself:
fixed when the core is constructed and never changed (R39, 10_state.md). They are data of the
machine's state so that every claim quantifies over all of them.
-/

namespace Sys2Proof

/-- The scoreboard mechanism (R22, R23, R123; 92_eei_decisions.md D20). -/
inductive ScoreboardKind where
  /-- One validity flag per register: the source's mechanism, and the default. -/
  | flag
  /-- One count of pending writers per register: the spec's own alternative. -/
  | counter
  deriving DecidableEq, Repr

/-- The run mode (R140): it selects only whether the caller prints a trace. -/
inductive RunMode where
  | simulate
  | display
  deriving DecidableEq, Repr

/-- The parameters of R7 that the source leaves open, and the driver's two inputs. -/
structure Config where
  /-- `BASE_ADDR`, the address of instruction 0 and the reset value of the PC. -/
  baseAddr : Word
  /-- `DMEM_SIZE`, the number of data memory cells. -/
  dmemSize : Nat
  /-- `MAX_CYCLES`, the cycle budget. -/
  maxCycles : Nat
  /-- `RUN_MODE`, without effect on any state (D31). -/
  runMode : RunMode
  /-- `SCOREBOARD_KIND` (D20). -/
  scoreboardKind : ScoreboardKind
  /-- `CMP_FALLTHROUGH` (D21). -/
  cmpFallthrough : Bool
  deriving DecidableEq, Repr

/-- The suggested defaults of R7, with the cycle budget that 95_test_vectors.md uses.
DESIGN CHOICE (notes/assumptions/3.md): R7 leaves `BASE_ADDR`, `DMEM_SIZE`, `MAX_CYCLES` and
`RUN_MODE` to whoever constructs the core. Unsafe for a claim about this one configuration. -/
def Config.default : Config where
  baseAddr := 4000#32
  dmemSize := 4096
  maxCycles := 1000
  runMode := .simulate
  scoreboardKind := .flag
  cmpFallthrough := false

end Sys2Proof
end

