-- ==== Sys2Proof/Syntax.lean ====
section
/-!
DEFINITION. The instruction set as syntax: the 18 opcodes of R84 (30_encoding.md), the eight
operand formats of R81, the decoded record of R80 (as the loader hands it over, and as the
Instruction Store keeps it) and the instructions themselves, one constructor per row of
spec/opcode_table.json.
-/

namespace Sys2Proof

/-- The 18 opcodes (R84: "The opcode set is fixed and closed"), in the table's order. -/
inductive Opcode where
  | add | sub | mul | div | and | or | xor
  | addl | subl | movc | cmp
  | load | store | ldr | str
  | bz | bnz | halt
  deriving DecidableEq, Repr

/-- The operand formats of R81. -/
inductive Format where
  /-- `rd` destination, `rs1`, `rs2` sources. -/
  | r3
  /-- `rd` destination, `rs1` source, `imm`. -/
  | ri
  /-- `rd` destination, `imm`. -/
  | i
  /-- `rs1`, `rs2` sources. -/
  | c2
  /-- `rd` store-data register, `rs1` base, `imm`. -/
  | si
  /-- `rd` store-data register, `rs1`, `rs2` address sources. -/
  | sr
  /-- `imm`, the branch offset. -/
  | b
  /-- No operand. -/
  | n
  deriving DecidableEq, Repr

/-- An operand field of the record (R80). -/
inductive Field where
  | rd | rs1 | rs2 | imm
  deriving DecidableEq, Repr

/-- The opcode tag of a record as the loader supplies it: one of the 18, or something else, which
R85 (b) refuses. -/
inductive OpcodeTag where
  | named (o : Opcode)
  | unknown (tag : String)
  deriving DecidableEq, Repr

/-- An instruction record as the loader hands it over (R80, R85): nothing about it is checked yet.
A register field may be absent or hold any integer; the immediate may be absent.
A present immediate is a 32-bit pattern, and every one is admitted (R82). -/
structure RawRecord where
  opcode : OpcodeTag
  rd : Option Int
  rs1 : Option Int
  rs2 : Option Int
  imm : Option Word
  mnemonic : String
  deriving DecidableEq, Repr

/-- An admitted instruction record, as the Instruction Store keeps it (R27, R80): every field
present, every register index 0..15. Fields the opcode's format does not use hold 0 (R81, R83). -/
structure Record where
  opcode : Opcode
  rd : Reg
  rs1 : Reg
  rs2 : Reg
  imm : Word
  /-- Display text with no semantic effect (R80). -/
  mnemonic : String
  deriving DecidableEq, Repr

/-- The instructions: one constructor per row of spec/opcode_table.json, with exactly the operands
its format uses (R81). STORE and STR name the register that is stored first (R81, R87). -/
inductive Instr where
  | add (rd rs1 rs2 : Reg)
  | sub (rd rs1 rs2 : Reg)
  | mul (rd rs1 rs2 : Reg)
  | div (rd rs1 rs2 : Reg)
  | and (rd rs1 rs2 : Reg)
  | or (rd rs1 rs2 : Reg)
  | xor (rd rs1 rs2 : Reg)
  | addl (rd rs1 : Reg) (imm : Word)
  | subl (rd rs1 : Reg) (imm : Word)
  | movc (rd : Reg) (imm : Word)
  | cmp (rs1 rs2 : Reg)
  | load (rd rs1 : Reg) (imm : Word)
  | store (rdata rbase : Reg) (imm : Word)
  | ldr (rd rs1 rs2 : Reg)
  | str (rdata rs1 rs2 : Reg)
  | bz (imm : Word)
  | bnz (imm : Word)
  | halt
  deriving DecidableEq, Repr

end Sys2Proof
end

