-- ==== Sys2Proof/WellFormed.lean ====
section
/-!
DEFINITION. Well-formedness of what a core is constructed from: the record sequence (R85,
30_encoding.md) and the parameters' domains (R7, 92_eei_decisions.md D8, D9, D30).
An `Instr` needs no check of its own: its register operands are indices 0..15 by type.
-/

namespace Sys2Proof

/-- The format column of R84. -/
def Opcode.format : Opcode → Format
  | .add | .sub | .mul | .div | .and | .or | .xor | .ldr => .r3
  | .addl | .subl | .load => .ri
  | .movc => .i
  | .cmp => .c2
  | .store => .si
  | .str => .sr
  | .bz | .bnz => .b
  | .halt => .n

/-- The fields a format uses (R81). -/
def Format.uses : Format → Field → Bool
  | .r3, .rd | .r3, .rs1 | .r3, .rs2 => true
  | .ri, .rd | .ri, .rs1 | .ri, .imm => true
  | .i, .rd | .i, .imm => true
  | .c2, .rs1 | .c2, .rs2 => true
  | .si, .rd | .si, .rs1 | .si, .imm => true
  | .sr, .rd | .sr, .rs1 | .sr, .rs2 => true
  | .b, .imm => true
  | .r3, .imm | .ri, .rs2 | .i, .rs1 | .i, .rs2 | .c2, .rd | .c2, .imm => false
  | .si, .rs2 | .sr, .imm | .b, .rd | .b, .rs1 | .b, .rs2 => false
  | .n, .rd | .n, .rs1 | .n, .rs2 | .n, .imm => false

/-- R85 (c), (d): a register field is present and holds 0..15. -/
def regFieldOk : Option Int → Bool
  | some v => decide (0 ≤ v ∧ v < 16)
  | none => false

/-- R85 (b), (c), (d) for one record. Fields the format does not use are ignored (R81). -/
def RawRecord.wf (r : RawRecord) : Bool :=
  match r.opcode with
  | .unknown _ => false
  | .named o =>
      (!o.format.uses .rd || regFieldOk r.rd) &&
      (!o.format.uses .rs1 || regFieldOk r.rs1) &&
      (!o.format.uses .rs2 || regFieldOk r.rs2) &&
      (!o.format.uses .imm || r.imm.isSome)

/-- R85 for a record sequence: (a) it is not empty, and every record is well formed. -/
def programWf (p : List RawRecord) : Bool :=
  !p.isEmpty && p.all RawRecord.wf

/-- The parameters' domains: `DMEM_SIZE >= 1` (D9) and `BASE_ADDR + 4*(N-1) < 2^32` (D8, D30). -/
def Config.wf (c : Config) (n : Nat) : Bool :=
  decide (1 ≤ c.dmemSize ∧ c.baseAddr.toNat + 4 * (n - 1) < 2 ^ 32)

end Sys2Proof
end

