-- ==== Sys2Proof/Decode.lean ====
section
/-!
DEFINITION. Decoding and encoding. The hardware's encoding of an instruction IS the decoded record
of R80 (30_encoding.md); the spec defines no binary word and forbids a model to invent one (R3,
R80, 91_not_in_source.md N12). `decode` reads a record handed over by the loader, by its opcode tag
alone (R84), and rejects by name what R85 does not admit; `encode` writes the record of an
instruction. `decodeBytes` is the decoder over bytes: it rejects every byte string by name.
-/

namespace Sys2Proof

/-- Why a record, or a byte string, is no instruction. -/
inductive DecodeError where
  /-- The opcode tag is not one of the 18 (R85 (b)). Safe: nothing runs. -/
  | unknownOpcode (tag : String)
  /-- A field the format uses is absent (R85 (d)). Safe: nothing runs. -/
  | missingField (f : Field)
  /-- A register field the format uses is outside 0..15 (R85 (c)). Safe: nothing runs. -/
  | registerOutOfRange (f : Field) (index : Int)
  /-- Instructions have no binary word (R3, R80). Safe: nothing runs. -/
  | noBinaryEncoding
  deriving DecidableEq, Repr

/-- Read a register field (R83, R85 (c), (d)). -/
def regField (f : Field) : Option Int → Except DecodeError Reg
  | none => .error (.missingField f)
  | some v =>
      if h : 0 ≤ v ∧ v < 16 then .ok ⟨v.toNat, by omega⟩
      else .error (.registerOutOfRange f v)

/-- Read the immediate (R82: used as is, every 32-bit value admitted; R85 (d)). -/
def immField : Option Word → Except DecodeError Word
  | none => .error (.missingField .imm)
  | some v => .ok v

/-- The three register fields of formats R3 and SR, in the order rd, rs1, rs2. -/
def decodeRegs3 (r : RawRecord) (mk : Reg → Reg → Reg → Instr) : Except DecodeError Instr := do
  let rd ← regField .rd r.rd
  let rs1 ← regField .rs1 r.rs1
  let rs2 ← regField .rs2 r.rs2
  return mk rd rs1 rs2

/-- The fields of formats RI and SI: rd, rs1, imm. -/
def decodeRegs2Imm (r : RawRecord) (mk : Reg → Reg → Word → Instr) : Except DecodeError Instr := do
  let rd ← regField .rd r.rd
  let rs1 ← regField .rs1 r.rs1
  let imm ← immField r.imm
  return mk rd rs1 imm

/-- Decode a record by its opcode tag alone (R84), checking R85 (b) to (d). -/
def decode (r : RawRecord) : Except DecodeError Instr :=
  match r.opcode with
  | .unknown tag => .error (.unknownOpcode tag)
  | .named .add => decodeRegs3 r .add
  | .named .sub => decodeRegs3 r .sub
  | .named .mul => decodeRegs3 r .mul
  | .named .div => decodeRegs3 r .div
  | .named .and => decodeRegs3 r .and
  | .named .or => decodeRegs3 r .or
  | .named .xor => decodeRegs3 r .xor
  | .named .addl => decodeRegs2Imm r .addl
  | .named .subl => decodeRegs2Imm r .subl
  | .named .movc => do
      let rd ← regField .rd r.rd
      let imm ← immField r.imm
      return .movc rd imm
  | .named .cmp => do
      let rs1 ← regField .rs1 r.rs1
      let rs2 ← regField .rs2 r.rs2
      return .cmp rs1 rs2
  | .named .load => decodeRegs2Imm r .load
  | .named .store => decodeRegs2Imm r .store
  | .named .ldr => decodeRegs3 r .ldr
  | .named .str => decodeRegs3 r .str
  | .named .bz => do
      let imm ← immField r.imm
      return .bz imm
  | .named .bnz => do
      let imm ← immField r.imm
      return .bnz imm
  | .named .halt => .ok .halt

/-- The opcode of an instruction (R84). -/
def Instr.opcode : Instr → Opcode
  | .add .. => .add
  | .sub .. => .sub
  | .mul .. => .mul
  | .div .. => .div
  | .and .. => .and
  | .or .. => .or
  | .xor .. => .xor
  | .addl .. => .addl
  | .subl .. => .subl
  | .movc .. => .movc
  | .cmp .. => .cmp
  | .load .. => .load
  | .store .. => .store
  | .ldr .. => .ldr
  | .str .. => .str
  | .bz .. => .bz
  | .bnz .. => .bnz
  | .halt => .halt

/-- The spelling of an opcode in spec/opcode_table.json, used as its display mnemonic. -/
def Opcode.name : Opcode → String
  | .add => "ADD"
  | .sub => "SUB"
  | .mul => "MUL"
  | .div => "DIV"
  | .and => "AND"
  | .or => "OR"
  | .xor => "XOR"
  | .addl => "ADDL"
  | .subl => "SUBL"
  | .movc => "MOVC"
  | .cmp => "CMP"
  | .load => "LOAD"
  | .store => "STORE"
  | .ldr => "LDR"
  | .str => "STR"
  | .bz => "BZ"
  | .bnz => "BNZ"
  | .halt => "HALT"

/-- The admitted record of an instruction: the fields its format uses (R81), 0 in the others
(R83: CMP's `imm` is 0). DESIGN CHOICE (notes/assumptions/6.md): 0 for the other unused fields,
which no rule reads (93_implementation_defined.md U9). Safe. -/
def Record.ofInstr (i : Instr) (mnemonic : String) : Record :=
  match i with
  | .add rd rs1 rs2 => ⟨.add, rd, rs1, rs2, 0, mnemonic⟩
  | .sub rd rs1 rs2 => ⟨.sub, rd, rs1, rs2, 0, mnemonic⟩
  | .mul rd rs1 rs2 => ⟨.mul, rd, rs1, rs2, 0, mnemonic⟩
  | .div rd rs1 rs2 => ⟨.div, rd, rs1, rs2, 0, mnemonic⟩
  | .and rd rs1 rs2 => ⟨.and, rd, rs1, rs2, 0, mnemonic⟩
  | .or rd rs1 rs2 => ⟨.or, rd, rs1, rs2, 0, mnemonic⟩
  | .xor rd rs1 rs2 => ⟨.xor, rd, rs1, rs2, 0, mnemonic⟩
  | .addl rd rs1 imm => ⟨.addl, rd, rs1, 0, imm, mnemonic⟩
  | .subl rd rs1 imm => ⟨.subl, rd, rs1, 0, imm, mnemonic⟩
  | .movc rd imm => ⟨.movc, rd, 0, 0, imm, mnemonic⟩
  | .cmp rs1 rs2 => ⟨.cmp, 0, rs1, rs2, 0, mnemonic⟩
  | .load rd rs1 imm => ⟨.load, rd, rs1, 0, imm, mnemonic⟩
  | .store rdata rbase imm => ⟨.store, rdata, rbase, 0, imm, mnemonic⟩
  | .ldr rd rs1 rs2 => ⟨.ldr, rd, rs1, rs2, 0, mnemonic⟩
  | .str rdata rs1 rs2 => ⟨.str, rdata, rs1, rs2, 0, mnemonic⟩
  | .bz imm => ⟨.bz, 0, 0, 0, imm, mnemonic⟩
  | .bnz imm => ⟨.bnz, 0, 0, 0, imm, mnemonic⟩
  | .halt => ⟨.halt, 0, 0, 0, 0, mnemonic⟩

/-- The instruction an admitted record stands for, by its opcode tag alone (R84). -/
def Record.instr (r : Record) : Instr :=
  match r.opcode with
  | .add => .add r.rd r.rs1 r.rs2
  | .sub => .sub r.rd r.rs1 r.rs2
  | .mul => .mul r.rd r.rs1 r.rs2
  | .div => .div r.rd r.rs1 r.rs2
  | .and => .and r.rd r.rs1 r.rs2
  | .or => .or r.rd r.rs1 r.rs2
  | .xor => .xor r.rd r.rs1 r.rs2
  | .addl => .addl r.rd r.rs1 r.imm
  | .subl => .subl r.rd r.rs1 r.imm
  | .movc => .movc r.rd r.imm
  | .cmp => .cmp r.rs1 r.rs2
  | .load => .load r.rd r.rs1 r.imm
  | .store => .store r.rd r.rs1 r.imm
  | .ldr => .ldr r.rd r.rs1 r.rs2
  | .str => .str r.rd r.rs1 r.rs2
  | .bz => .bz r.imm
  | .bnz => .bnz r.imm
  | .halt => .halt

/-- Admit a record of the loader into the Instruction Store (R85), keeping its display text. -/
def admitRecord (r : RawRecord) : Except DecodeError Record :=
  (decode r).map fun i => Record.ofInstr i r.mnemonic

/-- The record of the loader's kind that holds exactly the fields of an admitted record. -/
def Record.toRaw (r : Record) : RawRecord where
  opcode := .named r.opcode
  rd := some r.rd.val
  rs1 := some r.rs1.val
  rs2 := some r.rs2.val
  imm := some r.imm
  mnemonic := r.mnemonic

/-- Encode an instruction as a loader's record: the opcode tag, the fields its format uses (R81)
and 0 in the others, as the records of 95_test_vectors.md are written (R83: CMP's `imm` is 0). -/
def encode (i : Instr) : RawRecord :=
  (Record.ofInstr i i.opcode.name).toRaw

/-- The decoder over bytes: no byte string is an instruction, because the hardware has no binary
instruction word (R3: "a model must not invent one"; R80; 92_eei_decisions.md D2). -/
def decodeBytes (_bytes : List (BitVec 8)) : Except DecodeError Instr :=
  .error .noBinaryEncoding

/-- The `n` low bytes of `w`, least significant first. -/
def bytesOf : Nat → Nat → List (BitVec 8)
  | 0, _ => []
  | n + 1, w => BitVec.ofNat 8 w :: bytesOf n (w / 256)

/-- The instruction the decoder reads from an opcode-table row's bits. The table gives its rows no
bits (every row is matched by its opcode tag), so the decoder refuses every word by name and this
is `none`. DEDUCED (notes/assumptions/2.md). Safe. -/
def decodeTableWord (nbits w : Nat) : Option Instr :=
  match decodeBytes (bytesOf (nbits / 8) w) with
  | .ok i => some i
  | .error _ => none

end Sys2Proof
end

