-- ==== Sys2Proof/Machine/State.lean ====
section
/-!
DEFINITION. The state of the core (10_state.md): architectural state, the five pipeline latches,
control bits, counters and run status, with the configuration and the Instruction Store that
construction fixes (R39, R27). `State.init` is the state construction produces (R38).
-/

namespace Sys2Proof.Machine

/-- The kinds of fatal run-time error (R251 to R254). They are the spec's faults: a cycle that
raises one ends in a NEXT state whose status names it (R250), not in a `Fault` of the host's kind. -/
inductive FaultKind where
  | divideByZero
  | divideOverflow
  | fetchOutOfRange
  | fetchMisaligned
  | dataAddressOutOfRange
  deriving DecidableEq, Repr

/-- Why a fetch produced no instruction (R30 `poison`, R110). -/
inductive Poison where
  | fetchOutOfRange
  | fetchMisaligned
  deriving DecidableEq, Repr

/-- The `opcode` of a latch (R30): one of the 18, or `INVALID`, which marks a poisoned latch and
carries its `poison` (R110: the two are written together). -/
inductive LatchOpcode where
  | known (o : Opcode)
  | invalid (p : Poison)
  deriving DecidableEq, Repr

/-- A pipeline latch (R30). Every field but `hasInstruction` is meaningless in a latch that is not
live (R31). -/
structure Latch where
  hasInstruction : Bool
  pc : Word
  opcode : LatchOpcode
  rd : Reg
  rs1 : Reg
  rs2 : Reg
  imm : Word
  mnemonic : String
  sourceValue1 : Word
  sourceValue2 : Word
  resultValue : Word
  memoryAddress : Word
  deriving DecidableEq, Repr

/-- A latch at reset: every field 0 (R38). DESIGN CHOICE (notes/assumptions/5.md): the enumeration
`opcode` has no 0, so ADD, the first opcode of R84, stands for it; no rule reads it (R31). Safe. -/
def Latch.zero : Latch where
  hasInstruction := false
  pc := 0
  opcode := .known .add
  rd := 0
  rs1 := 0
  rs2 := 0
  imm := 0
  mnemonic := ""
  sourceValue1 := 0
  sourceValue2 := 0
  resultValue := 0
  memoryAddress := 0

/-- The scoreboard under each `SCOREBOARD_KIND` (R22, R23): the state is the flags, or the counts,
never both. -/
inductive Scoreboard where
  /-- `valid[i]` (R22). -/
  | flag (valid : Vector Bool 16)
  /-- `pend[i]`, the issued but unretired instructions with destination i (R23). -/
  | counter (pend : Vector Nat 16)
  deriving DecidableEq, Repr

/-- The scoreboard at reset: every register valid, no writer pending (R38). -/
def Scoreboard.reset : ScoreboardKind → Scoreboard
  | .flag => .flag (Vector.replicate 16 true)
  | .counter => .counter (Vector.replicate 16 0)

/-- Data memory `DMEM` (R28) in one canonical form: (cell index, value) pairs with indices strictly
rising, where an unlisted cell holds 0 (R38) and no listed cell does. -/
structure Memory where
  cells : List (Nat × Word)
  deriving DecidableEq, Repr

/-- The run status (R34). -/
inductive Status where
  | running
  | halted
  /-- `info` is a pc for the DIV and fetch faults (R251 to R253), the data address, read as a signed
  number, for DataAddressOutOfRange (R254). -/
  | faulted (kind : FaultKind) (info : Word)
  | budgetExhausted
  deriving DecidableEq, Repr

/-- The pipeline stages, in the order one cycle evaluates them (R100). -/
inductive Stage where
  | writeback
  | memory
  | execute
  | decode
  | fetch
  deriving DecidableEq, Repr

/-- The state of the core (10_state.md rules R20 to R39). -/
structure State where
  /-- The parameters of R7, fixed at construction (R39). -/
  cfg : Config
  /-- The Instruction Store `IStore[0..N-1]`, never written (R27). -/
  istore : List Record
  /-- The general registers R0..R15 (R20). -/
  x : Vector Word 16
  /-- The scoreboard (R22, R23). -/
  scoreboard : Scoreboard
  /-- The program counter: the address Fetch reads next (R24). -/
  pc : Word
  /-- The zero flag `Z` (R25). -/
  z : Bool
  /-- The redirect flag, `fetchFromNextCycle` in the source (R26). -/
  redirect : Bool
  /-- Data memory (R28). -/
  dmem : Memory
  /-- The cycles evaluated (R29, R101). -/
  clock : Nat
  /-- `insn_completed`, the instructions retired (R29, R121). -/
  insnCompleted : Nat
  /-- The run status (R34). -/
  status : Status
  /-- The Fetch latch `F` (R30). -/
  f : Latch
  /-- `F.isStalled` (R33). -/
  fIsStalled : Bool
  /-- `F.held` (R32). -/
  fHeld : Bool
  /-- The Decode latch `D` (R30). -/
  d : Latch
  /-- `D.isStalled` (R33). -/
  dIsStalled : Bool
  /-- The Execute latch `E` (R30). -/
  e : Latch
  /-- The Memory latch `M` (R30). -/
  m : Latch
  /-- The Writeback latch `W` (R30). -/
  w : Latch
  /-- The MODEL's own field: the stage whose evaluation is under way inside a cycle (R12, R100).
  Between cycles it is `writeback`, the stage the next cycle evaluates first.
  DESIGN CHOICE (notes/assumptions/1.md). Safe. -/
  stage : Stage
  deriving DecidableEq, Repr

/-- Why a step stops outside what the spec describes. The spec's own faults are not here: they are
next states with status `faulted` (R250). -/
inductive Fault where
  /-- Raised by a step at a state whose Execute, Memory or Writeback latch (the stage named) is live
  and holds `INVALID`. Decode never lets one pass (R111), no rule gives those stages an action for
  it, and no state a run reaches is such a state. Safe: the step stops.
  DEDUCED (notes/assumptions/7.md). -/
  | invalidPastDecode (stage : Stage)
  deriving DecidableEq, Repr

/-- Why an instruction is refused. -/
inductive Refusal where
  /-- An instruction without a meaning in the model. Raised by no arm: all 18 have theirs. Safe. -/
  | notModelled (mnemonic : String)
  deriving DecidableEq, Repr

/-- The state construction produces from a configuration and an admitted program (R38, R280). -/
def State.init (cfg : Config) (program : List Record) : State where
  cfg := cfg
  istore := program
  x := Vector.replicate 16 0
  scoreboard := Scoreboard.reset cfg.scoreboardKind
  pc := cfg.baseAddr
  z := false
  redirect := false
  dmem := ⟨[]⟩
  clock := 0
  insnCompleted := 0
  status := .running
  f := { Latch.zero with hasInstruction := true }
  fIsStalled := false
  fHeld := false
  d := Latch.zero
  dIsStalled := false
  e := Latch.zero
  m := Latch.zero
  w := Latch.zero
  stage := .writeback

/-- The machine right after reset with no program loaded: the reset state of R38 under the
suggested defaults of R7. The spec's reset IS construction from a program (R280); the program is
loaded from outside the machine. DESIGN CHOICE (notes/assumptions/3.md, notes/assumptions/4.md). -/
def State.reset : State := State.init Config.default []

end Sys2Proof.Machine
end

