-- ==== Sys2Proof/Machine/Operands.lean ====
section
/-!
DEFINITION. Operand forms and the arithmetic of results, addresses and targets (R9 00_scope.md,
R160 41_alu.md, R204 42_loadstore.md, R230 43_control.md). Each is computed on mathematical
integers and narrowed once, as R9 writes it.
-/

namespace Sys2Proof.Machine

/-- `s32(v)`: the 32-bit two's-complement value congruent to `v` modulo 2^32 (R9). -/
def s32 (v : Int) : Word := BitVec.ofInt 32 v

/-- `u32(v)`: `v` mod 2^32, for PC arithmetic (R9). -/
def u32 (v : Int) : Word := BitVec.ofInt 32 v

/-- The sum of ADD and ADDL, wrapped (R160, R161, R168). -/
def addWord (a b : Word) : Word := s32 (a.toInt + b.toInt)

/-- The difference of SUB and SUBL, first operand minus second, wrapped (R160, R162, R169). -/
def subWord (a b : Word) : Word := s32 (a.toInt - b.toInt)

/-- The low 32 bits of the full product (R160, R163). -/
def mulWord (a b : Word) : Word := s32 (a.toInt * b.toInt)

/-- `quot(a, b)`: integer division truncating toward zero (R9). -/
def quot (a b : Int) : Int := Int.tdiv a b

/-- The quotient of DIV, or the fault it raises: the divisor 0 is checked first, then -2^31 / -1
(R164, R251, R252, R256). -/
def divWord (a b : Word) : Except FaultKind Word :=
  if b.toInt = 0 then .error .divideByZero
  else if a.toInt = -2 ^ 31 ∧ b.toInt = -1 then .error .divideOverflow
  else .ok (s32 (quot a.toInt b.toInt))

/-- AND, bitwise on the patterns (R165). -/
def andWord (a b : Word) : Word := a &&& b

/-- OR, bitwise on the patterns (R166). -/
def orWord (a b : Word) : Word := a ||| b

/-- XOR, bitwise on the patterns (R167). -/
def xorWord (a b : Word) : Word := a ^^^ b

/-- The effective address of both addressing modes: base plus offset or index, wrapped (R204). -/
def effectiveAddress (base offset : Word) : Word := s32 (base.toInt + offset.toInt)

/-- The target of a branch: its own address plus the signed immediate, in address units (R230). -/
def branchTarget (pc imm : Word) : Word := u32 (pc.toNat + imm.toInt)

/-- The address of the next instruction, `INSN_WIDTH` = 4 units on (R8, R106). -/
def nextPc (pc : Word) : Word := u32 (pc.toNat + 4)

end Sys2Proof.Machine
end

