-- ==== Sys2Proof/Machine/Flags.lean ====
section
/-!
DEFINITION. The computations of the one flag, `Z` (R25 10_state.md, R117 40_pipeline.md).
-/

namespace Sys2Proof.Machine

/-- `Z` after ADD, SUB, MUL, DIV, AND, OR, XOR and MOVC: `result == 0` (R25). -/
def zeroOfResult (result : Word) : Bool := decide (result = 0)

/-- `Z` after CMP: `sourceValue1 == sourceValue2` (R25, R171). -/
def zeroOfCompare (sv1 sv2 : Word) : Bool := decide (sv1 = sv2)

end Sys2Proof.Machine
end

