-- ==== Sys2Proof/Machine/Ops.lean ====
section
/-!
DEFINITION. The named operations over registers, scoreboard, memory, Instruction Store and latches
that the meanings and the stages are built from, with the raising of a fault (R250) and the halt
(R102) as one shared operation each. The core has no trap entry and no return from a trap (R257,
R258): a fault stops the core.
-/

namespace Sys2Proof.Machine

/-- A step outcome of this machine. -/
abbrev Result := Host.Outcome State Fault Refusal

/-! ### Registers and scoreboard -/

/-- `x[r]` (R10). -/
def State.reg (s : State) (r : Reg) : Word := s.x[r]

/-- `x[r] <- v` (R10). No register is hardwired (R20). -/
def State.setReg (s : State) (r : Reg) (v : Word) : State := { s with x := s.x.set r v }

/-- ready(r), which is also the output "valid" of r (R123). -/
def Scoreboard.ready (b : Scoreboard) (r : Reg) : Bool :=
  match b with
  | .flag valid => valid[r]
  | .counter pend => pend[r] == 0

/-- invalidate(r) (R123). -/
def Scoreboard.invalidate (b : Scoreboard) (r : Reg) : Scoreboard :=
  match b with
  | .flag valid => .flag (valid.set r false)
  | .counter pend => .counter (pend.set r (pend[r] + 1))

/-- restore(r) (R123). A count never goes below 0 there; natural subtraction stops at 0. -/
def Scoreboard.restore (b : Scoreboard) (r : Reg) : Scoreboard :=
  match b with
  | .flag valid => .flag (valid.set r true)
  | .counter pend => .counter (pend.set r (pend[r] - 1))

/-- The mechanism a scoreboard implements. -/
def Scoreboard.kind : Scoreboard → ScoreboardKind
  | .flag _ => .flag
  | .counter _ => .counter

/-- A source the instruction does not have is ready (R112). -/
def State.sourceReady (s : State) : Option Reg → Bool
  | none => true
  | some r => s.scoreboard.ready r

/-- Invalidate the destination, where the instruction has one (R114 (2)). -/
def State.invalidateDest (s : State) : Option Reg → State
  | none => s
  | some rd => { s with scoreboard := s.scoreboard.invalidate rd }

/-! ### Data memory -/

/-- The value of cell `k` in a list of cells; an unlisted cell holds 0 (R38, R281). -/
def readCells : List (Nat × Word) → Nat → Word
  | [], _ => 0
  | (a, v) :: rest, k => if a = k then v else readCells rest k

/-- Put a value into cell `k` of a list of cells, keeping the canonical form of `Memory`. -/
def writeCells : List (Nat × Word) → Nat → Word → List (Nat × Word)
  | [], k, v => if v = 0 then [] else [(k, v)]
  | (a, u) :: rest, k, v =>
      if k < a then (if v = 0 then (a, u) :: rest else (k, v) :: (a, u) :: rest)
      else if k = a then (if v = 0 then rest else (k, v) :: rest)
      else (a, u) :: writeCells rest k v

/-- The cell of index `k`. -/
def Memory.read (mem : Memory) (k : Nat) : Word := readCells mem.cells k

/-- Memory with the cell of index `k` set to `v`. -/
def Memory.write (mem : Memory) (k : Nat) (v : Word) : Memory := ⟨writeCells mem.cells k v⟩

/-- The canonical form of data memory: indices strictly rising, no listed cell equal to 0. -/
abbrev Memory.wf (mem : Memory) : Prop :=
  mem.cells.Pairwise (fun c c' => c.1 < c'.1) ∧ ∀ c ∈ mem.cells, c.2 ≠ 0

/-- The cell a data address names: a 32-bit signed index, in range iff `0 <= a < DMEM_SIZE` (R61). -/
def State.cellIndex (s : State) (a : Word) : Option Nat :=
  if 0 ≤ a.toInt ∧ a.toInt < s.cfg.dmemSize then some a.toInt.toNat else none

/-! ### Stopping -/

/-- The fault a poison kind stands for (R253). -/
def Poison.faultKind : Poison → FaultKind
  | .fetchOutOfRange => .fetchOutOfRange
  | .fetchMisaligned => .fetchMisaligned

/-- The fault codes (R251 to R254; the spec's own numbers). -/
def FaultKind.code : FaultKind → Nat
  | .divideByZero => 1
  | .divideOverflow => 2
  | .fetchOutOfRange => 3
  | .fetchMisaligned => 4
  | .dataAddressOutOfRange => 5

/-- `clock <- clock + 1`, once at the end of every cycle (R101). -/
def State.tick (s : State) : State := { s with clock := s.clock + 1 }

/-- `raise Fault(kind, info)` (R250): the raising stage writes nothing, the cycle is counted, the
status becomes final. The cycle evaluates no later stage, because the status is not Running. -/
def State.raiseFault (s : State) (kind : FaultKind) (info : Word) : State :=
  { s with status := .faulted kind info, clock := s.clock + 1 }

/-- The core stops on a retired HALT (R102, R122): the cycle is counted, no later stage runs. -/
def State.haltCore (s : State) : State :=
  { s with status := .halted, clock := s.clock + 1 }

/-! ### Latches -/

/-- `clear(L)`: the latch is not live; its other fields stay, meaningless (R11). -/
def Latch.clear (l : Latch) : Latch := { l with hasInstruction := false }

/-- `poison` of a latch (R30). -/
def Latch.poison (l : Latch) : Option Poison :=
  match l.opcode with
  | .known _ => none
  | .invalid p => some p

/-- The record in a latch whose opcode is `o` (R30, R80). -/
def Latch.recordOf (l : Latch) (o : Opcode) : Record := ⟨o, l.rd, l.rs1, l.rs2, l.imm, l.mnemonic⟩

/-- The instruction in a latch, by its opcode tag alone (R84); none in a poisoned latch. -/
def Latch.instr (l : Latch) : Option Instr :=
  match l.opcode with
  | .known o => some (l.recordOf o).instr
  | .invalid _ => none

/-- Where the Instruction Store keeps the instruction at address `a`: its index, or why there is
none (R110). Misalignment is checked first (R256). -/
def State.storeIndex (s : State) (a : Word) : Except Poison Nat :=
  let off : Int := a.toNat - s.cfg.baseAddr.toNat
  if off % 4 ≠ 0 then .error .fetchMisaligned
  else if off < 0 ∨ s.istore.length ≤ off / 4 then .error .fetchOutOfRange
  else .ok (off / 4).toNat

/-- The record at address `a` of the instruction space, or the poison of a fetch there (R110). -/
def State.fetchRecord (s : State) (a : Word) : Except Poison Record :=
  match s.storeIndex a with
  | .error p => .error p
  | .ok k =>
      match s.istore[k]? with
      | some r => .ok r
      | none => .error .fetchOutOfRange

/-- The Fetch latch `Load(a)` leaves (R110): the instruction fields and no control bit. A poisoned
load writes only `pc`, `opcode` and `poison`. -/
def State.loadedLatch (s : State) (a : Word) : Latch :=
  match s.fetchRecord a with
  | .error p => { s.f with pc := a, opcode := .invalid p }
  | .ok r =>
      { s.f with
        pc := a, opcode := .known r.opcode, rd := r.rd, rs1 := r.rs1, rs2 := r.rs2,
        imm := r.imm, mnemonic := r.mnemonic }

/-- `Load(pc)` (R110). -/
def State.loadAtPc (s : State) : State := { s with f := s.loadedLatch s.pc }

/-! ### Fetch -/

/-- Forward the Fetch latch: `D <- F` and `pc <- u32(pc + 4)` (R106 (2), (3); R108 (2), (3)). -/
def State.forward (s : State) : State :=
  { s with d := s.f, dIsStalled := s.fIsStalled, pc := nextPc s.pc }

/-- Disable further fetching (R107). -/
def State.disableFetch (s : State) : State := { s with f := s.f.clear }

/-- The stalled Fetch: load at the PC, but leave the latch empty and held (R105). -/
def State.holdFetch (s : State) : State :=
  let l := s.loadedLatch s.pc
  { s with f := l.clear, fHeld := true }

/-- The resumed Fetch becomes live before it forwards (R108 (1)). -/
def State.resumeFetch (s : State) : State :=
  { s with f := { s.f with hasInstruction := true }, fHeld := false }

/-! ### Decode -/

/-- The stall: Decode and Fetch are held back (R113). -/
def State.stall (s : State) : State := { s with dIsStalled := true, fIsStalled := true }

/-- Read the operands the instruction has into the Decode latch (R114 (1)). -/
def State.readSources (s : State) (src1 src2 : Option Reg) : State :=
  { s with d := { s.d with
      sourceValue1 := src1.elim s.d.sourceValue1 s.reg
      sourceValue2 := src2.elim s.d.sourceValue2 s.reg } }

/-- Clear both stall flags, `E <- D`, `clear(D)` (R114 (3) to (5)). -/
def State.advanceDecode (s : State) : State :=
  { s with dIsStalled := false, fIsStalled := false, e := s.d, d := s.d.clear }

/-- Decode of an instruction with the given sources and destination: issue if every source is
ready, else stall (R112, R113, R114). Operands are read before the destination is invalidated. -/
def State.decodeWith (s : State) (src1 src2 dest : Option Reg) : State :=
  if s.sourceReady src1 && s.sourceReady src2 then
    ((s.readSources src1 src2).invalidateDest dest).advanceDecode
  else s.stall

/-! ### Execute -/

/-- `M <- E`, `clear(E)` (R116): also done when the Execute latch is not live. -/
def State.passExecute (s : State) : State := { s with m := s.e, e := s.e.clear }

/-- `E.resultValue <- v`. -/
def State.setResult (s : State) (v : Word) : State :=
  { s with e := { s.e with resultValue := v } }

/-- `E.memoryAddress <- a`. -/
def State.setAddress (s : State) (a : Word) : State :=
  { s with e := { s.e with memoryAddress := a } }

/-- `Z <- b` (R117). -/
def State.setZ (s : State) (b : Bool) : State := { s with z := b }

/-- A result that also sets Z (R117). -/
def State.executeResultZ (s : State) (v : Word) : State :=
  ((s.setResult v).setZ (zeroOfResult v)).passExecute

/-- A result that leaves Z alone (R168, R169). -/
def State.executeResult (s : State) (v : Word) : State := (s.setResult v).passExecute

/-- A data address (R200 to R204). -/
def State.executeAddress (s : State) (a : Word) : State := (s.setAddress a).passExecute

/-- A taken branch: redirect and flush, in the order of R118. -/
def State.takeBranch (s : State) (target : Word) : State :=
  { s with
    pc := target, redirect := true, d := s.d.clear, f := { s.f with hasInstruction := true } }

/-- A branch on `cond` from the address in the Execute latch (R230, R231). -/
def State.executeBranch (s : State) (cond : Bool) (imm : Word) : State :=
  (if cond then s.takeBranch (branchTarget s.e.pc imm) else s).passExecute

/-! ### Memory -/

/-- `W <- M`, `clear(M)` (R119): also done when the Memory latch is not live. -/
def State.passMemory (s : State) : State := { s with w := s.m, m := s.m.clear }

/-- The Memory action of LOAD and LDR (R119, R62): an address out of range raises a fault (R254). -/
def State.memoryLoad (s : State) : State :=
  match s.cellIndex s.m.memoryAddress with
  | none => s.raiseFault .dataAddressOutOfRange s.m.memoryAddress
  | some k => { s with m := { s.m with resultValue := s.dmem.read k } }.passMemory

/-- The Memory action of STORE and STR (R119, R62): the register file's value of `rdata` at this
moment (R201), or a fault (R254). -/
def State.memoryStore (s : State) (rdata : Reg) : State :=
  match s.cellIndex s.m.memoryAddress with
  | none => s.raiseFault .dataAddressOutOfRange s.m.memoryAddress
  | some k => { s with dmem := s.dmem.write k (s.reg rdata) }.passMemory

/-! ### Writeback -/

/-- Write the destination and restore it (R120). -/
def State.writeDest (s : State) (rd : Reg) : State :=
  { s.setReg rd s.w.resultValue with scoreboard := s.scoreboard.restore rd }

/-- Count the retired instruction and clear the Writeback latch (R121). -/
def State.retire (s : State) : State :=
  { s with insnCompleted := s.insnCompleted + 1, w := s.w.clear }

end Sys2Proof.Machine
end

