-- ==== Sys2Proof/Machine/Arithmetic.lean ====
section
/-!
DEFINITION. The meanings of the arithmetic, logic, move and compare instructions (41_alu.md, R160 to
R172). A meaning gives the action of its instruction in the stage that is evaluating it (R12, R100):
being forwarded by Fetch, and then the Decode, Execute, Memory and Writeback actions of its rule.
-/

namespace Sys2Proof.Machine

/-- An instruction of format R3 whose result sets Z and cannot fault. Hazard class: two-source with
destination (R89). -/
def aluRegReg (op : Word → Word → Word) (rd rs1 rs2 : Reg) (s : State) : Result :=
  match s.stage with
  | .fetch => .next s.forward
  | .decode => .next (s.decodeWith (some rs1) (some rs2) (some rd))
  | .execute => .next (s.executeResultZ (op s.e.sourceValue1 s.e.sourceValue2))
  | .memory => .next s.passMemory
  | .writeback => .next (s.writeDest rd).retire

/-- An instruction of format RI that computes a result and leaves Z alone. Hazard class: one-source
with destination (R89). -/
def aluRegImm (op : Word → Word → Word) (rd rs1 : Reg) (imm : Word) (s : State) : Result :=
  match s.stage with
  | .fetch => .next s.forward
  | .decode => .next (s.decodeWith (some rs1) none (some rd))
  | .execute => .next (s.executeResult (op s.e.sourceValue1 imm))
  | .memory => .next s.passMemory
  | .writeback => .next (s.writeDest rd).retire

/-- ADD (R161). -/
def execAdd (rd rs1 rs2 : Reg) (s : State) : Result := aluRegReg addWord rd rs1 rs2 s

/-- SUB (R162): rs1 minus rs2. -/
def execSub (rd rs1 rs2 : Reg) (s : State) : Result := aluRegReg subWord rd rs1 rs2 s

/-- MUL (R163): the low 32 bits of the product. -/
def execMul (rd rs1 rs2 : Reg) (s : State) : Result := aluRegReg mulWord rd rs1 rs2 s

/-- DIV (R164). A fault is raised in Execute with info `E.pc` and writes nothing (R250 to R252). -/
def execDiv (rd rs1 rs2 : Reg) (s : State) : Result :=
  match s.stage with
  | .fetch => .next s.forward
  | .decode => .next (s.decodeWith (some rs1) (some rs2) (some rd))
  | .execute =>
      match divWord s.e.sourceValue1 s.e.sourceValue2 with
      | .error kind => .next (s.raiseFault kind s.e.pc)
      | .ok v => .next (s.executeResultZ v)
  | .memory => .next s.passMemory
  | .writeback => .next (s.writeDest rd).retire

/-- AND (R165). -/
def execAnd (rd rs1 rs2 : Reg) (s : State) : Result := aluRegReg andWord rd rs1 rs2 s

/-- OR (R166). -/
def execOr (rd rs1 rs2 : Reg) (s : State) : Result := aluRegReg orWord rd rs1 rs2 s

/-- XOR (R167). -/
def execXor (rd rs1 rs2 : Reg) (s : State) : Result := aluRegReg xorWord rd rs1 rs2 s

/-- ADDL (R168): Z is not changed. -/
def execAddl (rd rs1 : Reg) (imm : Word) (s : State) : Result := aluRegImm addWord rd rs1 imm s

/-- SUBL (R169): rs1 minus imm; Z is not changed. -/
def execSubl (rd rs1 : Reg) (imm : Word) (s : State) : Result := aluRegImm subWord rd rs1 imm s

/-- MOVC (R170): no source, so it never stalls; the result is the immediate and sets Z. -/
def execMovc (rd : Reg) (imm : Word) (s : State) : Result :=
  match s.stage with
  | .fetch => .next s.forward
  | .decode => .next (s.decodeWith none none (some rd))
  | .execute => .next (s.executeResultZ imm)
  | .memory => .next s.passMemory
  | .writeback => .next (s.writeDest rd).retire

/-- The Execute action of CMP (R171), continued with BZ's when `CMP_FALLTHROUGH` is true (R172):
the branch then reads the Z just written and CMP's own `pc` and `imm` latch fields. -/
def State.executeCompare (s : State) : State :=
  let s' := s.setZ (zeroOfCompare s.e.sourceValue1 s.e.sourceValue2)
  if s.cfg.cmpFallthrough then s'.executeBranch s'.z s.e.imm else s'.passExecute

/-- CMP (R171, R172): two sources, no destination. -/
def execCmp (rs1 rs2 : Reg) (s : State) : Result :=
  match s.stage with
  | .fetch => .next s.forward
  | .decode => .next (s.decodeWith (some rs1) (some rs2) none)
  | .execute => .next s.executeCompare
  | .memory => .next s.passMemory
  | .writeback => .next s.retire

end Sys2Proof.Machine
end

