-- ==== Sys2Proof/Machine/Control.lean ====
section
/-!
DEFINITION. The meanings of the control transfers and HALT (43_control.md, R230 to R233). A meaning
gives the action of its instruction in the stage that is evaluating it (R12, R100).
-/

namespace Sys2Proof.Machine

/-- A conditional branch, taken when `cond` holds of Z: no source, no destination, never stalls. -/
def branchOn (cond : Bool → Bool) (imm : Word) (s : State) : Result :=
  match s.stage with
  | .fetch => .next s.forward
  | .decode => .next (s.decodeWith none none none)
  | .execute => .next (s.executeBranch (cond s.z) imm)
  | .memory => .next s.passMemory
  | .writeback => .next s.retire

/-- BZ (R230). -/
def execBz (imm : Word) (s : State) : Result := branchOn (fun z => z) imm s

/-- BNZ (R231). -/
def execBnz (imm : Word) (s : State) : Result := branchOn (fun z => !z) imm s

/-- HALT (R232): forwarding it disables further fetching (R107); retiring it stops the core (R102,
R122). -/
def execHalt (s : State) : Result :=
  match s.stage with
  | .fetch => .next s.forward.disableFetch
  | .decode => .next (s.decodeWith none none none)
  | .execute => .next s.passExecute
  | .memory => .next s.passMemory
  | .writeback => .next s.retire.haltCore

end Sys2Proof.Machine
end

