-- ==== Sys2Proof/Machine/LoadStore.lean ====
section
/-!
DEFINITION. The meanings of the loads and stores (42_loadstore.md, R200 to R204). A meaning gives
the action of its instruction in the stage that is evaluating it (R12, R100).
-/

namespace Sys2Proof.Machine

/-- LOAD (R200): base plus immediate; the Memory stage reads the cell. -/
def execLoad (rd rs1 : Reg) (imm : Word) (s : State) : Result :=
  match s.stage with
  | .fetch => .next s.forward
  | .decode => .next (s.decodeWith (some rs1) none (some rd))
  | .execute => .next (s.executeAddress (effectiveAddress s.e.sourceValue1 imm))
  | .memory => .next s.memoryLoad
  | .writeback => .next (s.writeDest rd).retire

/-- STORE (R201): base plus immediate; the Memory stage writes the register file's current value of
the data register, which Decode neither checks nor reads. -/
def execStore (rdata rbase : Reg) (imm : Word) (s : State) : Result :=
  match s.stage with
  | .fetch => .next s.forward
  | .decode => .next (s.decodeWith (some rbase) none none)
  | .execute => .next (s.executeAddress (effectiveAddress s.e.sourceValue1 imm))
  | .memory => .next (s.memoryStore rdata)
  | .writeback => .next s.retire

/-- LDR (R202): base plus index register. -/
def execLdr (rd rs1 rs2 : Reg) (s : State) : Result :=
  match s.stage with
  | .fetch => .next s.forward
  | .decode => .next (s.decodeWith (some rs1) (some rs2) (some rd))
  | .execute => .next (s.executeAddress (effectiveAddress s.e.sourceValue1 s.e.sourceValue2))
  | .memory => .next s.memoryLoad
  | .writeback => .next (s.writeDest rd).retire

/-- STR (R203): base plus index register; the data register as for STORE. -/
def execStr (rdata rs1 rs2 : Reg) (s : State) : Result :=
  match s.stage with
  | .fetch => .next s.forward
  | .decode => .next (s.decodeWith (some rs1) (some rs2) none)
  | .execute => .next (s.executeAddress (effectiveAddress s.e.sourceValue1 s.e.sourceValue2))
  | .memory => .next (s.memoryStore rdata)
  | .writeback => .next s.retire

end Sys2Proof.Machine
end

