-- ==== Sys2Proof/Machine/Dispatch.lean ====
section
/-!
DEFINITION. exec: the action of an instruction in the stage that is evaluating it (R12, R100). The
stages call it on the instruction in their latch (Machine/Stages.lean).
-/

namespace Sys2Proof.Machine

def exec (i : Instr) (s : State) : Host.Outcome State Fault Refusal :=
  match i with
  | .add rd rs1 rs2 => Sys2Proof.Machine.execAdd rd rs1 rs2 s
  | .sub rd rs1 rs2 => Sys2Proof.Machine.execSub rd rs1 rs2 s
  | .mul rd rs1 rs2 => Sys2Proof.Machine.execMul rd rs1 rs2 s
  | .div rd rs1 rs2 => Sys2Proof.Machine.execDiv rd rs1 rs2 s
  | .and rd rs1 rs2 => Sys2Proof.Machine.execAnd rd rs1 rs2 s
  | .or rd rs1 rs2 => Sys2Proof.Machine.execOr rd rs1 rs2 s
  | .xor rd rs1 rs2 => Sys2Proof.Machine.execXor rd rs1 rs2 s
  | .addl rd rs1 imm => Sys2Proof.Machine.execAddl rd rs1 imm s
  | .subl rd rs1 imm => Sys2Proof.Machine.execSubl rd rs1 imm s
  | .movc rd imm => Sys2Proof.Machine.execMovc rd imm s
  | .cmp rs1 rs2 => Sys2Proof.Machine.execCmp rs1 rs2 s
  | .load rd rs1 imm => Sys2Proof.Machine.execLoad rd rs1 imm s
  | .store rdata rbase imm => Sys2Proof.Machine.execStore rdata rbase imm s
  | .ldr rd rs1 rs2 => Sys2Proof.Machine.execLdr rd rs1 rs2 s
  | .str rdata rs1 rs2 => Sys2Proof.Machine.execStr rdata rs1 rs2 s
  | .bz imm => Sys2Proof.Machine.execBz imm s
  | .bnz imm => Sys2Proof.Machine.execBnz imm s
  | .halt => Sys2Proof.Machine.execHalt s

end Sys2Proof.Machine
end

