-- ==== Sys2Proof/Machine/Stages.lean ====
section
/-!
DEFINITION. The five stage evaluations, the clock cycle that runs them in reverse pipeline order
(R100, 40_pipeline.md), the budget check before it (R103), and the construction of a core from
unchecked records (R85, R255, R280).
-/

namespace Sys2Proof.Machine

/-! ### The stages -/

/-- Writeback (R120 to R122): a live latch retires; otherwise nothing happens. -/
def writebackStage (s : State) : Result :=
  if s.w.hasInstruction then
    match s.w.instr with
    | some i => exec i s
    | none => .fault (.invalidPastDecode .writeback)
  else .next s

/-- Memory (R119): a live latch has its action; a latch that is not live is copied and cleared. -/
def memoryStage (s : State) : Result :=
  if s.m.hasInstruction then
    match s.m.instr with
    | some i => exec i s
    | none => .fault (.invalidPastDecode .memory)
  else .next s.passMemory

/-- Execute (R116): a live latch has its action; a latch that is not live is copied and cleared. -/
def executeStage (s : State) : Result :=
  if s.e.hasInstruction then
    match s.e.instr with
    | some i => exec i s
    | none => .fault (.invalidPastDecode .execute)
  else .next s.passExecute

/-- Decode (R111): a live poisoned latch raises its fault with info `D.pc` (R253); any other live
latch issues or stalls; a latch that is not live does nothing. -/
def decodeStage (s : State) : Result :=
  if s.d.hasInstruction then
    match s.d.opcode with
    | .invalid p => .next (s.raiseFault p.faultKind s.d.pc)
    | .known o => exec (s.d.recordOf o).instr s
  else .next s

/-- Forward the loaded or held Fetch latch to Decode (R106, R107, R108): an instruction by its own
action, a poisoned latch as it stands (R110). -/
def forwardStage (s : State) : Result :=
  match s.f.instr with
  | some i => exec i s
  | none => .next s.forward

/-- Fetch: redirect skip (R104), hold (R105), normal (R106), resume (R108), idle (R109). -/
def fetchStage (s : State) : Result :=
  if s.redirect then .next { s with redirect := false }
  else if s.f.hasInstruction then
    if s.fIsStalled then .next s.holdFetch
    else forwardStage s.loadAtPc
  else if !s.fIsStalled && s.fHeld then forwardStage s.resumeFetch
  else .next s

/-! ### The cycle -/

/-- Go on to stage `st` while the core runs; a halt or a fault in an earlier stage ends the cycle
(R102, R250 (3)). -/
def thenStage (o : Result) (st : Stage) (eval : State → Result) : Result :=
  match o with
  | .next s => if s.status = .running then eval { s with stage := st } else .next s
  | .fault r => .fault r
  | .refused r => .refused r

/-- The end of a cycle: `clock` is counted where no halt or fault has counted it (R101). -/
def closeCycle (o : Result) : Result :=
  match o with
  | .next s =>
      .next { (if s.status = .running then s.tick else s) with stage := .writeback }
  | .fault r => .fault r
  | .refused r => .refused r

/-- One clock cycle: Writeback, Memory, Execute, Decode, Fetch (R100). -/
def cycle (s : State) : Result :=
  let wb := writebackStage { s with stage := .writeback }
  let mem := thenStage wb .memory memoryStage
  let ex := thenStage mem .execute executeStage
  let dec := thenStage ex .decode decodeStage
  closeCycle (thenStage dec .fetch fetchStage)

/-- One turn of the driver's loop (R103): a core that is not running stays as it is (R34); a core at
its budget stops; otherwise one cycle. -/
def advance (s : State) : Result :=
  if s.status = .running then
    if s.clock = s.cfg.maxCycles then .next { s with status := .budgetExhausted } else cycle s
  else .next s

/-! ### Construction -/

/-- Why construction fails, with no core produced (R255). -/
inductive ConstructionError where
  /-- No instruction sequence (R85 (a)). -/
  | emptyProgram
  /-- A record failing R85, with why. -/
  | malformedEntry (why : DecodeError)
  /-- A parameter outside its domain (R7, D9, D30). DESIGN CHOICE (notes/assumptions/8.md): the spec
  gives the domains and no error for them. Safe. -/
  | parameterOutOfDomain
  deriving DecidableEq, Repr

/-- Admit every record of a program, or name the first that is malformed (R85). -/
def admitProgram : List RawRecord → Except DecodeError (List Record)
  | [] => .ok []
  | r :: rest =>
      match admitRecord r with
      | .error e => .error e
      | .ok a =>
          match admitProgram rest with
          | .error e => .error e
          | .ok as => .ok (a :: as)

/-- Construct a core (R85, R140, R255, R280). -/
def construct (cfg : Config) (program : List RawRecord) : Except ConstructionError State :=
  if program.isEmpty then .error .emptyProgram
  else
    match admitProgram program with
    | .error e => .error (.malformedEntry e)
    | .ok records =>
        if cfg.wf program.length then .ok (State.init cfg records)
        else .error .parameterOutOfDomain

end Sys2Proof.Machine
end

