-- ==== Sys2Proof/Machine/Step.lean ====
section
/-!
DEFINITION. The step of the machine: one turn of the driver's loop, which is one clock cycle while
the core runs within its budget (R2, R100, R103). And the loading of one instruction where the next
step fetches.
-/

namespace Sys2Proof.Machine

/-- One step: one clock cycle (R2), or the budget stop (R103), or nothing once the status is final
(R34). -/
def step (s : State) : Host.Outcome State Fault Refusal := advance s

/-- The state with a program of one record loaded where the next step fetches: the record is
instruction 0, the PC its address, Fetch enabled, the core running with at least one cycle of
budget left. Nothing else changes. It stands for the external loader (R281); see
notes/assumptions/4.md and notes/assumptions/17.md. -/
def State.withFetchRecord (s : State) (r : Record) : State :=
  { s with
    istore := [r]
    pc := s.cfg.baseAddr
    redirect := false
    f := { s.f with hasInstruction := true }
    fIsStalled := false
    fHeld := false
    status := .running
    cfg := { s.cfg with maxCycles := max s.cfg.maxCycles (s.clock + 1) } }

/-- The state with the instruction of an opcode-table word stored where the next step fetches. No
word is an instruction of this hardware (R3, R80; `decodeTableWord`), so no word loads one; a
program is loaded as records, by `construct` or `State.withFetchRecord`. -/
def State.withFetchWord (s : State) (nbits w : Nat) : State :=
  match decodeTableWord nbits w with
  | some i => s.withFetchRecord (Record.ofInstr i i.opcode.name)
  | none => s

end Sys2Proof.Machine
end

