-- ==== Sys2Proof/Machine/Trace.lean ====
section
/-!
DEFINITION. What the core exposes to the host (R141, 40_pipeline.md): the final report, and one
observation per stage a cycle evaluates. Both are functions of the state: reading them changes
nothing (R262).
-/

namespace Sys2Proof.Machine

/-- One trace observation (R141): the stage, and the `pc` and `mnemonic` of the latch it evaluated
as the latch stood when the stage began, where that latch was live. -/
structure Observation where
  stage : Stage
  live : Option (Word × String)
  deriving DecidableEq, Repr

/-- What the trace sees of a latch (R141). -/
def Latch.observe (l : Latch) : Option (Word × String) :=
  if l.hasInstruction then some (l.pc, l.mnemonic) else none

/-- The observation of stage `st` of the cycle, where the stages before it ended in `o`: none if
they ended the cycle (R141: "A stage not evaluated ... exposes nothing"). -/
def observeAfter (o : Result) (st : Stage) (latch : State → Latch) : List Observation :=
  match o with
  | .next s => if s.status = .running then [⟨st, (latch s).observe⟩] else []
  | .fault _ => []
  | .refused _ => []

/-- The observations of the cycle a step evaluates at `s`, in evaluation order (R141, R100); none
where the step evaluates no cycle (R103, R34). -/
def cycleTrace (s : State) : List Observation :=
  if s.status = .running ∧ s.clock ≠ s.cfg.maxCycles then
    let wb := writebackStage { s with stage := .writeback }
    let mem := thenStage wb .memory memoryStage
    let ex := thenStage mem .execute executeStage
    let dec := thenStage ex .decode decodeStage
    [⟨.writeback, s.w.observe⟩] ++ observeAfter wb .memory State.m ++
      observeAfter mem .execute State.e ++ observeAfter ex .decode State.d ++
      observeAfter dec .fetch State.f
  else []

/-- The core's report (R141): each register's value and valid bit, every data cell, the two
counters, and the status with the fault kind and info. -/
structure Report where
  registers : Vector (Word × Bool) 16
  dataMemory : List Word
  totalCycles : Nat
  totalRetired : Nat
  status : Status
  deriving DecidableEq, Repr

/-- The report of a state (R141; R123 for the valid bit under each `SCOREBOARD_KIND`). -/
def State.report (s : State) : Report where
  registers := Vector.ofFn fun r => (s.reg r, s.scoreboard.ready r)
  dataMemory := (List.range s.cfg.dmemSize).map s.dmem.read
  totalCycles := s.clock
  totalRetired := s.insnCompleted
  status := s.status

end Sys2Proof.Machine
end

