-- ==== Sys2Proof/Safety.lean ====
section
/-!
DEFINITION. The words claims are stated in: the hazard-class table (R89), what a latch holds, the
invariants of the state between cycles, a whole run, the passage of one instruction through the
pipeline, and the sequential machine that the pipeline is compared with (R130).
-/

namespace Sys2Proof

/-! ### The hazard-class table of R89 (30_encoding.md) -/

/-- The first source Decode checks and reads. -/
def Instr.src1 : Instr → Option Reg
  | .add _ rs1 _ | .sub _ rs1 _ | .mul _ rs1 _ | .div _ rs1 _ => some rs1
  | .and _ rs1 _ | .or _ rs1 _ | .xor _ rs1 _ | .ldr _ rs1 _ | .str _ rs1 _ => some rs1
  | .addl _ rs1 _ | .subl _ rs1 _ | .load _ rs1 _ => some rs1
  | .store _ rbase _ => some rbase
  | .cmp rs1 _ => some rs1
  | .movc _ _ | .bz _ | .bnz _ | .halt => none

/-- The second source Decode checks and reads. -/
def Instr.src2 : Instr → Option Reg
  | .add _ _ rs2 | .sub _ _ rs2 | .mul _ _ rs2 | .div _ _ rs2 => some rs2
  | .and _ _ rs2 | .or _ _ rs2 | .xor _ _ rs2 | .ldr _ _ rs2 | .str _ _ rs2 => some rs2
  | .cmp _ rs2 => some rs2
  | .addl _ _ _ | .subl _ _ _ | .load _ _ _ | .store _ _ _ => none
  | .movc _ _ | .bz _ | .bnz _ | .halt => none

/-- The destination, invalidated at issue and written at Writeback. -/
def Instr.dest : Instr → Option Reg
  | .add rd _ _ | .sub rd _ _ | .mul rd _ _ | .div rd _ _ => some rd
  | .and rd _ _ | .or rd _ _ | .xor rd _ _ | .ldr rd _ _ => some rd
  | .addl rd _ _ | .subl rd _ _ | .load rd _ _ => some rd
  | .movc rd _ => some rd
  | .cmp _ _ | .store _ _ _ | .str _ _ _ | .bz _ | .bnz _ | .halt => none

/-- The register read at Memory: the store data. -/
def Instr.storeData : Instr → Option Reg
  | .store rdata _ _ | .str rdata _ _ => some rdata
  | .add _ _ _ | .sub _ _ _ | .mul _ _ _ | .div _ _ _ | .and _ _ _ | .or _ _ _ | .xor _ _ _ => none
  | .addl _ _ _ | .subl _ _ _ | .movc _ _ | .cmp _ _ | .load _ _ _ | .ldr _ _ _ => none
  | .bz _ | .bnz _ | .halt => none

/-- Whether Execute writes Z. -/
def Instr.writesZ : Instr → Bool
  | .add _ _ _ | .sub _ _ _ | .mul _ _ _ | .div _ _ _ | .and _ _ _ | .or _ _ _ | .xor _ _ _ => true
  | .movc _ _ | .cmp _ _ => true
  | .addl _ _ _ | .subl _ _ _ | .load _ _ _ | .store _ _ _ | .ldr _ _ _ | .str _ _ _ => false
  | .bz _ | .bnz _ | .halt => false

/-- Whether the Memory stage reads or writes a cell: LOAD, STORE, LDR, STR (R60, R119). -/
def Instr.accessesMemory : Instr → Bool
  | .load _ _ _ | .store _ _ _ | .ldr _ _ _ | .str _ _ _ => true
  | .add _ _ _ | .sub _ _ _ | .mul _ _ _ | .div _ _ _ | .and _ _ _ | .or _ _ _ | .xor _ _ _ => false
  | .addl _ _ _ | .subl _ _ _ | .movc _ _ | .cmp _ _ | .bz _ | .bnz _ | .halt => false

namespace Machine

/-! ### What a latch holds -/

/-- The latch is live and holds instruction `i`. -/
abbrev Latch.holds (l : Latch) (i : Instr) : Prop := l.hasInstruction = true ∧ l.instr = some i

/-- The latch is live and holds a HALT. -/
abbrev Latch.holdsHalt (l : Latch) : Prop := l.holds .halt

/-- The destination of the live instruction in a latch. -/
def Latch.dest (l : Latch) : Option Reg :=
  if l.hasInstruction then l.instr.bind Instr.dest else none

/-- How many of the issued, unretired instructions (in E, M and W) have destination `r`. -/
def State.inFlight (s : State) (r : Reg) : Nat :=
  [s.e, s.m, s.w].countP fun l => l.dest == some r

/-- The live instruction in the latch takes a branch when Execute evaluates it with the flag and the
configuration of `s`: BZ on Z, BNZ on not Z, CMP of equal values under `CMP_FALLTHROUGH` (R118, R230,
R231, R172). -/
abbrev Latch.TakesBranch (l : Latch) (s : State) : Prop :=
  (∃ imm, l.holds (.bz imm) ∧ s.z = true) ∨ (∃ imm, l.holds (.bnz imm) ∧ s.z = false) ∨
  (∃ rs1 rs2, l.holds (.cmp rs1 rs2) ∧ s.cfg.cmpFallthrough = true ∧
    l.sourceValue1 = l.sourceValue2)

/-! ### Invariants between cycles -/

/-- R128 and R127: the control bits at a cycle boundary. -/
abbrev ControlBits (s : State) : Prop :=
  s.fIsStalled = s.dIsStalled ∧
  (s.dIsStalled = true → s.d.hasInstruction = true) ∧
  (s.fHeld = true → s.f.hasInstruction = false ∧ s.fIsStalled = true) ∧
  s.redirect = false ∧
  (s.e.hasInstruction = true → s.dIsStalled = false ∧ s.fIsStalled = false ∧ s.fHeld = false)

/-- No poisoned latch is live past Decode (R111). -/
abbrev DecodedPastDecode (s : State) : Prop :=
  (s.e.hasInstruction = true → s.e.poison = none) ∧
  (s.m.hasInstruction = true → s.m.poison = none) ∧
  (s.w.hasInstruction = true → s.w.poison = none)

/-- Fetching is disabled, as after a forwarded HALT (R107). -/
abbrev FetchDisabled (s : State) : Prop := s.f.hasInstruction = false ∧ s.fHeld = false

/-- R129: behind a HALT no latch is live and nothing is fetched. -/
abbrev NothingBehindHalt (s : State) : Prop :=
  (s.d.holdsHalt → FetchDisabled s) ∧
  (s.e.holdsHalt → FetchDisabled s ∧ s.d.hasInstruction = false) ∧
  (s.m.holdsHalt → FetchDisabled s ∧ s.d.hasInstruction = false ∧ s.e.hasInstruction = false) ∧
  (s.w.holdsHalt → FetchDisabled s ∧ s.d.hasInstruction = false ∧ s.e.hasInstruction = false ∧
    s.m.hasInstruction = false)

/-- R123, Counter: the count of a register is the number of its writers in flight. -/
abbrev CountsWriters (s : State) : Prop :=
  ∀ pend, s.scoreboard = .counter pend → ∀ r : Reg, pend[r] = s.inFlight r

/-- Flag: a register that is not valid has a writer in flight (R22). -/
abbrev InvalidHasWriter (s : State) : Prop :=
  ∀ valid, s.scoreboard = .flag valid → ∀ r : Reg, valid[r] = false → 0 < s.inFlight r

/-- The scoreboard is of the configured kind (R39). -/
abbrev KindAsConfigured (s : State) : Prop := s.scoreboard.kind = s.cfg.scoreboardKind

/-- Data memory is in canonical form and lists only cells that exist (R28). -/
abbrev MemoryOk (s : State) : Prop :=
  s.dmem.wf ∧ ∀ c ∈ s.dmem.cells, c.1 < s.cfg.dmemSize

/-- The latch holds what the Instruction Store keeps at the latch's address, or the poison of a fetch
there (R24, R110). -/
abbrev Latch.FromStore (l : Latch) (s : State) : Prop :=
  match s.fetchRecord l.pc with
  | .ok r => l.opcode = .known r.opcode ∧ l.recordOf r.opcode = r
  | .error p => l.opcode = .invalid p

/-- R31, R27: every live latch, and a held Fetch latch, holds the instruction of its address. -/
abbrev LatchesFromStore (s : State) : Prop :=
  (s.d.hasInstruction = true → s.d.FromStore s) ∧ (s.e.hasInstruction = true → s.e.FromStore s) ∧
  (s.m.hasInstruction = true → s.m.FromStore s) ∧ (s.w.hasInstruction = true → s.w.FromStore s) ∧
  (s.fHeld = true → s.f.FromStore s)

/-- R261: `insn_completed <= clock`, and `clock` never exceeds `MAX_CYCLES`. -/
abbrev CountersBounded (s : State) : Prop :=
  s.insnCompleted ≤ s.clock ∧ s.clock ≤ s.cfg.maxCycles

/-! ### Runs -/

/-- A state whose status is final (R34). -/
abbrev Final (s : State) : Prop := s.status ≠ .running

/-- The step at this state evaluates a cycle (R103). -/
abbrev EvaluatesCycle (s : State) : Prop := s.status = .running ∧ s.clock ≠ s.cfg.maxCycles

/-- `k` steps of the machine. -/
def runSteps (k : Nat) (s : State) : Result := Host.Core.run Sys2Proof.core k s

/-- Run() of R103 as far as the budget can last. -/
def runToEnd (s : State) : Result := runSteps (s.cfg.maxCycles - s.clock + 1) s

/-- Whether Decode stalls in the cycle a step evaluates at `s` (R113). -/
def stallsIn (s : State) : Bool :=
  match step s with
  | .next t => decide (EvaluatesCycle s) && t.dIsStalled
  | .fault _ => false
  | .refused _ => false

/-- Whether Execute takes a branch in the cycle a step evaluates at `s` (R118). -/
def redirectsIn (s : State) : Bool :=
  let wb := writebackStage { s with stage := .writeback }
  match thenStage (thenStage wb .memory memoryStage) .execute executeStage with
  | .next t => decide (EvaluatesCycle s) && t.redirect
  | .fault _ => false
  | .refused _ => false

/-- In how many of the next `k` steps `event` happens. -/
def countSteps (event : State → Bool) : Nat → State → Nat
  | 0, _ => 0
  | k + 1, s =>
      (if event s then 1 else 0) +
        match step s with
        | .next t => countSteps event k t
        | .fault _ => 0
        | .refused _ => 0

/-- What makes a run safe: no step ends outside the spec (Machine/State.lean, `Fault`, `Refusal`). -/
def StepSafe (s : State) : Prop := ∃ t, step s = .next t

/-- The state with every field of a D, E, M or W latch that is not live set to its reset value: what
is left is all that a rule may read (R31). -/
def State.scrub (s : State) : State :=
  { s with
    d := if s.d.hasInstruction then s.d else Latch.zero
    e := if s.e.hasInstruction then s.e else Latch.zero
    m := if s.m.hasInstruction then s.m else Latch.zero
    w := if s.w.hasInstruction then s.w else Latch.zero }

/-- One instruction through Decode, Execute, Memory and Writeback with nothing in between: the
composition of its four stage actions, stopped where one of them ends the run. -/
def throughPipeline (i : Instr) (s : State) : Result :=
  let dec := exec i { s with stage := .decode }
  let ex := thenStage dec .execute (exec i)
  let mem := thenStage ex .memory (exec i)
  thenStage mem .writeback (exec i)

/-! ### What an instruction does in each stage, as an explicit next state -/

/-- Fetch forwards `i`: `D <- F` and the PC moves on by 4; nothing else changes (R106, R108). -/
def ForwardedByFetch (i : Instr) (s : State) : Prop :=
  s.stage = .fetch →
    exec i s = .next { s with d := s.f, dIsStalled := s.fIsStalled, pc := s.pc + 4 }

/-- Decode of `i` with the given sources and destination (R112 to R114). Every source ready: the
operands are read, the destination is invalidated, the stall flags are cleared, the latch moves on
to Execute, and nothing else changes. Otherwise: the stall flags are set, nothing else changes. -/
def IssuesOrStalls (i : Instr) (src1 src2 dest : Option Reg) (s : State) : Prop :=
  s.stage = .decode →
    ((∀ r, src1 = some r ∨ src2 = some r → s.scoreboard.ready r = true) →
      exec i s = .next { s with
        e := { s.d with
          sourceValue1 := src1.elim s.d.sourceValue1 (fun r => s.x[r])
          sourceValue2 := src2.elim s.d.sourceValue2 (fun r => s.x[r]) }
        d := { s.d with
          sourceValue1 := src1.elim s.d.sourceValue1 (fun r => s.x[r])
          sourceValue2 := src2.elim s.d.sourceValue2 (fun r => s.x[r])
          hasInstruction := false }
        scoreboard := dest.elim s.scoreboard s.scoreboard.invalidate
        dIsStalled := false
        fIsStalled := false }) ∧
    ((∃ r, (src1 = some r ∨ src2 = some r) ∧ s.scoreboard.ready r = false) →
      exec i s = .next { s with dIsStalled := true, fIsStalled := true })

/-- Execute of `i` computes result `v`, leaves `z` in Z, and moves the latch on to Memory; nothing
else changes (R116). -/
def ExecutesToResult (i : Instr) (v : Word) (z : Bool) (s : State) : Prop :=
  exec i s = .next { s with
    m := { s.e with resultValue := v }
    e := { s.e with resultValue := v, hasInstruction := false }
    z := z }

/-- Execute of `i` computes data address `a` and moves the latch on to Memory; nothing else changes
(R116, R204). -/
def ExecutesToAddress (i : Instr) (a : Word) (s : State) : Prop :=
  exec i s = .next { s with
    m := { s.e with memoryAddress := a }
    e := { s.e with memoryAddress := a, hasInstruction := false } }

/-- Execute of `i` takes a branch to `target`, with `z` in Z: redirect and flush, and the latch moves
on to Memory; nothing else changes (R118). -/
def ExecutesTakenBranch (i : Instr) (target : Word) (z : Bool) (s : State) : Prop :=
  exec i s = .next { s with
    pc := target
    redirect := true
    d := { s.d with hasInstruction := false }
    f := { s.f with hasInstruction := true }
    z := z
    m := s.e
    e := { s.e with hasInstruction := false } }

/-- Execute of `i` leaves `z` in Z and moves the latch on to Memory; nothing else changes (R116). -/
def ExecutesToZ (i : Instr) (z : Bool) (s : State) : Prop :=
  exec i s = .next { s with m := s.e, e := { s.e with hasInstruction := false }, z := z }

/-- The stage evaluating `i` raises a fault: status and clock, nothing else (R250). -/
def RaisesFault (i : Instr) (k : FaultKind) (info : Word) (s : State) : Prop :=
  exec i s = .next { s with status := .faulted k info, clock := s.clock + 1 }

/-- The Memory stage passes `i` through unchanged (R119). -/
def PassesMemory (i : Instr) (s : State) : Prop :=
  s.stage = .memory →
    exec i s = .next { s with w := s.m, m := { s.m with hasInstruction := false } }

/-- The Memory stage of a load: the cell in range is read into the result, an address out of range
raises a fault; nothing else changes (R119, R62, R254). -/
def LoadsCell (i : Instr) (s : State) : Prop :=
  s.stage = .memory →
    (∀ k : Nat, (k : Int) = s.m.memoryAddress.toInt → k < s.cfg.dmemSize →
      exec i s = .next { s with
        w := { s.m with resultValue := s.dmem.read k }
        m := { s.m with resultValue := s.dmem.read k, hasInstruction := false } }) ∧
    ((s.m.memoryAddress.toInt < 0 ∨ (s.cfg.dmemSize : Int) ≤ s.m.memoryAddress.toInt) →
      RaisesFault i .dataAddressOutOfRange s.m.memoryAddress s)

/-- The Memory stage of a store of `rdata`: the cell in range gets the register's current value and
every other cell reads as before, an address out of range raises a fault; nothing else changes
(R119, R62, R254). Data memory has its canonical form. -/
def StoresCell (i : Instr) (rdata : Reg) (s : State) : Prop :=
  s.stage = .memory →
    (∀ k : Nat, (k : Int) = s.m.memoryAddress.toInt → k < s.cfg.dmemSize → s.dmem.wf →
      ∃ mem : Memory, mem.wf ∧ mem.read k = s.x[rdata] ∧
        (∀ j, j ≠ k → mem.read j = s.dmem.read j) ∧
        exec i s = .next { s with
          dmem := mem, w := s.m, m := { s.m with hasInstruction := false } }) ∧
    ((s.m.memoryAddress.toInt < 0 ∨ (s.cfg.dmemSize : Int) ≤ s.m.memoryAddress.toInt) →
      RaisesFault i .dataAddressOutOfRange s.m.memoryAddress s)

/-- Writeback of `i` with the given destination: the register and the scoreboard, the count, and
the latch cleared; nothing else changes (R120, R121). -/
def WritesBack (i : Instr) (dest : Option Reg) (s : State) : Prop :=
  s.stage = .writeback →
    exec i s = .next { s with
      x := dest.elim s.x (fun rd => s.x.set rd s.w.resultValue)
      scoreboard := dest.elim s.scoreboard s.scoreboard.restore
      insnCompleted := s.insnCompleted + 1
      w := { s.w with hasInstruction := false } }

/-! ### The sequential machine -/

/-- The state a sequential machine would have: registers, Z, data memory and the address of the
next instruction. -/
structure Arch where
  x : Vector Word 16
  z : Bool
  dmem : Memory
  pc : Word
  deriving DecidableEq, Repr

/-- How one sequential instruction ends. -/
inductive SeqOutcome where
  | next (a : Arch)
  | halted (a : Arch)
  | stopped
  deriving DecidableEq, Repr

/-- Write a result, with or without Z, and go on. -/
def Arch.result (a : Arch) (rd : Reg) (v : Word) (setsZ : Bool) : Arch :=
  { a with x := a.x.set rd v, z := if setsZ then decide (v = 0) else a.z, pc := a.pc + 4 }

/-- A sequential load from address `addr`. -/
def Arch.loadFrom (a : Arch) (s : State) (rd : Reg) (addr : Word) : SeqOutcome :=
  match s.cellIndex addr with
  | some k => .next (a.result rd (a.dmem.read k) false)
  | none => .stopped

/-- A sequential store to address `addr`. -/
def Arch.storeTo (a : Arch) (s : State) (rdata : Reg) (addr : Word) : SeqOutcome :=
  match s.cellIndex addr with
  | some k => .next { a with dmem := a.dmem.write k a.x[rdata], pc := a.pc + 4 }
  | none => .stopped

/-- The effect of instruction `i` at address `a.pc` on the sequential machine, with the
configuration of `s`: no latches, no stalls, no flush. `stopped` stands for the faults of R251, R252
and R254. CMP's `imm` is 0 (R83), so under `CMP_FALLTHROUGH` its target is the CMP itself (R172). -/
def seqExec (s : State) (i : Instr) (a : Arch) : SeqOutcome :=
  match i with
  | .add rd rs1 rs2 => .next (a.result rd (a.x[rs1] + a.x[rs2]) true)
  | .sub rd rs1 rs2 => .next (a.result rd (a.x[rs1] - a.x[rs2]) true)
  | .mul rd rs1 rs2 => .next (a.result rd (a.x[rs1] * a.x[rs2]) true)
  | .div rd rs1 rs2 =>
      if a.x[rs2].toInt = 0 ∨ (a.x[rs1].toInt = -2 ^ 31 ∧ a.x[rs2].toInt = -1) then .stopped
      else .next (a.result rd (a.x[rs1].sdiv a.x[rs2]) true)
  | .and rd rs1 rs2 => .next (a.result rd (a.x[rs1] &&& a.x[rs2]) true)
  | .or rd rs1 rs2 => .next (a.result rd (a.x[rs1] ||| a.x[rs2]) true)
  | .xor rd rs1 rs2 => .next (a.result rd (a.x[rs1] ^^^ a.x[rs2]) true)
  | .addl rd rs1 imm => .next (a.result rd (a.x[rs1] + imm) false)
  | .subl rd rs1 imm => .next (a.result rd (a.x[rs1] - imm) false)
  | .movc rd imm => .next (a.result rd imm true)
  | .cmp rs1 rs2 =>
      let eq := decide (a.x[rs1] = a.x[rs2])
      .next { a with z := eq, pc := if s.cfg.cmpFallthrough && eq then a.pc else a.pc + 4 }
  | .load rd rs1 imm => a.loadFrom s rd (a.x[rs1] + imm)
  | .store rdata rbase imm => a.storeTo s rdata (a.x[rbase] + imm)
  | .ldr rd rs1 rs2 => a.loadFrom s rd (a.x[rs1] + a.x[rs2])
  | .str rdata rs1 rs2 => a.storeTo s rdata (a.x[rs1] + a.x[rs2])
  | .bz imm => .next { a with pc := if a.z then a.pc + imm else a.pc + 4 }
  | .bnz imm => .next { a with pc := if a.z then a.pc + 4 else a.pc + imm }
  | .halt => .halted a

/-- One step of the sequential machine over the Instruction Store of `s`; `stopped` where the address
names no instruction (R253). -/
def seqStep (s : State) (a : Arch) : SeqOutcome :=
  match s.fetchRecord a.pc with
  | .error _ => .stopped
  | .ok r => seqExec s r.instr a

/-- `n` instructions of the sequential machine, stopping early at a HALT or a fault. -/
def seqRun (s : State) : Nat → Arch → SeqOutcome
  | 0, a => .next a
  | n + 1, a =>
      match seqStep s a with
      | .next a' => seqRun s n a'
      | .halted a' => .halted a'
      | .stopped => .stopped

/-- The architectural part of a state. -/
def State.arch (s : State) : Arch := ⟨s.x, s.z, s.dmem, s.pc⟩

end Machine

end Sys2Proof
end

