-- ==== Sys2Proof/Certificates/Slice0/Obligations.lean ====
section
/-!
DEFINITION. The statements for the provers. Each docstring names the rule of spec/ it formalises.
-/

open Sys2Proof Sys2Proof.Machine

/-! ### Construction and reset -/

/-- R38: every element of the reset state but the opcode of a latch, which is the model's choice
(notes/assumptions/5.md), for every configuration and program. -/
def Obligations.ConstructionResetsEveryElement : Prop :=
  ∀ (cfg : Config) (program : List Record),
    let s := State.init cfg program
    (∀ r, s.reg r = 0) ∧ (∀ r, s.scoreboard.ready r = true) ∧
    (cfg.scoreboardKind = .flag → s.scoreboard = .flag (Vector.replicate 16 true)) ∧
    (cfg.scoreboardKind = .counter → s.scoreboard = .counter (Vector.replicate 16 0)) ∧
    s.pc = cfg.baseAddr ∧ s.z = false ∧ s.redirect = false ∧ (∀ k, s.dmem.read k = 0) ∧
    s.clock = 0 ∧ s.insnCompleted = 0 ∧
    s.f.hasInstruction = true ∧ s.fIsStalled = false ∧ s.fHeld = false ∧
    s.d.hasInstruction = false ∧ s.e.hasInstruction = false ∧ s.m.hasInstruction = false ∧
    s.w.hasInstruction = false ∧ s.dIsStalled = false ∧
    (∀ l ∈ [s.f, s.d, s.e, s.m, s.w],
      l.pc = 0 ∧ l.rd = 0 ∧ l.rs1 = 0 ∧ l.rs2 = 0 ∧ l.imm = 0 ∧ l.sourceValue1 = 0 ∧
      l.sourceValue2 = 0 ∧ l.resultValue = 0 ∧ l.memoryAddress = 0 ∧ l.poison = none) ∧
    s.status = .running ∧ s.cfg = cfg ∧ s.istore = program

/-- The invariants below hold of the state construction produces (R38, R128). -/
def Obligations.ConstructedStateMeetsTheInvariants : Prop :=
  ∀ (cfg : Config) (program : List Record),
    let s := State.init cfg program
    ControlBits s ∧ DecodedPastDecode s ∧ NothingBehindHalt s ∧ CountsWriters s ∧
    InvalidHasWriter s ∧ KindAsConfigured s ∧ MemoryOk s ∧ CountersBounded s ∧ LatchesFromStore s

/-- R85: construction admits exactly the well-formed programs, and the Instruction Store then holds
each record's instruction and display text in order. The parameters are in their domains. -/
def Obligations.ConstructionAdmitsWellFormedPrograms : Prop :=
  ∀ (cfg : Config) (p : List RawRecord), cfg.wf p.length = true →
    ((∃ s, construct cfg p = .ok s) ↔
      (p ≠ [] ∧ ∀ r ∈ p, ∃ o, r.opcode = .named o ∧
        (o.format.uses .rd = true → ∃ v : Int, r.rd = some v ∧ 0 ≤ v ∧ v ≤ 15) ∧
        (o.format.uses .rs1 = true → ∃ v : Int, r.rs1 = some v ∧ 0 ≤ v ∧ v ≤ 15) ∧
        (o.format.uses .rs2 = true → ∃ v : Int, r.rs2 = some v ∧ 0 ≤ v ∧ v ≤ 15) ∧
        (o.format.uses .imm = true → ∃ v, r.imm = some v))) ∧
    (p = [] → construct cfg p = .error .emptyProgram) ∧
    (p ≠ [] → (∃ s, construct cfg p = .ok s) ∨ ∃ why, construct cfg p = .error (.malformedEntry why)) ∧
    (∀ s, construct cfg p = .ok s →
      ∃ records : List Record, s = State.init cfg records ∧ records.length = p.length ∧
        ∀ (k : Nat) (r : RawRecord) (a : Record), p[k]? = some r → records[k]? = some a →
          decode r = .ok a.instr ∧ a.mnemonic = r.mnemonic)

/-! ### Encoding -/

/-- R80, R81, R84: decoding the record of an instruction gives it back, and a record decodes to an
instruction exactly when its tag is the instruction's opcode and every field that opcode's format
uses is the instruction's: no used field is dropped, no unused field is read. -/
def Obligations.DecodingInvertsEncoding : Prop :=
  ∀ i : Instr, decode (encode i) = .ok i ∧
    ∀ r : RawRecord, decode r = .ok i ↔
      r.opcode = .named i.opcode ∧
      (i.opcode.format.uses .rd = true → r.rd = (encode i).rd) ∧
      (i.opcode.format.uses .rs1 = true → r.rs1 = (encode i).rs1) ∧
      (i.opcode.format.uses .rs2 = true → r.rs2 = (encode i).rs2) ∧
      (i.opcode.format.uses .imm = true → r.imm = (encode i).imm)

/-- R85, R255: every record that is not well formed is refused, by a name that says what is wrong
with it: an unknown opcode, a used field that is absent, or a used register field out of range. -/
def Obligations.DecoderNamesWhatIsWrong : Prop :=
  ∀ r : RawRecord,
    ((∃ i, decode r = .ok i) ↔ r.wf = true) ∧
    (∀ tag, r.opcode = .unknown tag ↔ decode r = .error (.unknownOpcode tag)) ∧
    decode r ≠ .error .noBinaryEncoding ∧
    (∀ o, r.opcode = .named o → r.wf = false →
      (∃ f, decode r = .error (.missingField f)) ∨
        ∃ f v, decode r = .error (.registerOutOfRange f v)) ∧
    (∀ f, decode r = .error (.missingField f) →
      ∃ o, r.opcode = .named o ∧ o.format.uses f = true ∧
        ((f = .rd ∧ r.rd = none) ∨ (f = .rs1 ∧ r.rs1 = none) ∨ (f = .rs2 ∧ r.rs2 = none) ∨
          (f = .imm ∧ r.imm = none))) ∧
    (∀ f v, decode r = .error (.registerOutOfRange f v) →
      (v < 0 ∨ 15 < v) ∧ ∃ o, r.opcode = .named o ∧ o.format.uses f = true ∧
        ((f = .rd ∧ r.rd = some v) ∨ (f = .rs1 ∧ r.rs1 = some v) ∨ (f = .rs2 ∧ r.rs2 = some v)))

/-- Records of programs P2 and P3 of 95_test_vectors.md, one of each format (R81), written out field
by field, decode to their instructions. -/
def Obligations.WrittenOutRecordsDecode : Prop :=
  decode ⟨.named .movc, some 2, some 0, some 0, some 3, "MOVC"⟩ = .ok (.movc 2 3) ∧
  decode ⟨.named .add, some 1, some 1, some 2, some 0, "ADD"⟩ = .ok (.add 1 1 2) ∧
  decode ⟨.named .cmp, some 0, some 2, some 0, some 0, "CMP"⟩ = .ok (.cmp 2 0) ∧
  decode ⟨.named .bnz, some 0, some 0, some 0, some (-12), "BNZ"⟩ = .ok (.bnz (-12)) ∧
  decode ⟨.named .store, some 1, some 3, some 0, some 0, "STORE"⟩ = .ok (.store 1 3 0) ∧
  decode ⟨.named .load, some 4, some 3, some 0, some 0, "LOAD"⟩ = .ok (.load 4 3 0) ∧
  decode ⟨.named .str, some 9, some 1, some 4, some 0, "STR"⟩ = .ok (.str 9 1 4) ∧
  decode ⟨.named .halt, some 0, some 0, some 0, some 0, "HALT"⟩ = .ok .halt

/-! ### The instructions, stage by stage -/

/-- R161, R162, R163: ADD, SUB and MUL in every stage. SUB's operand order is one R162 itself marks as
general knowledge (notes/assumptions/16.md). The `stage` field is the model's own (notes/assumptions/1.md), here and below. -/
def Obligations.AddSubMulRunInEveryStage : Prop :=
  ∀ (rd rs1 rs2 : Reg) (s : State),
    ∀ p ∈ [(Instr.add rd rs1 rs2, s.e.sourceValue1 + s.e.sourceValue2),
           (Instr.sub rd rs1 rs2, s.e.sourceValue1 - s.e.sourceValue2),
           (Instr.mul rd rs1 rs2, s.e.sourceValue1 * s.e.sourceValue2)],
      p.1.opcode.format = .r3 ∧ ForwardedByFetch p.1 s ∧
      IssuesOrStalls p.1 (some rs1) (some rs2) (some rd) s ∧
      (s.stage = .execute → ExecutesToResult p.1 p.2 (decide (p.2 = 0)) s) ∧
      PassesMemory p.1 s ∧ WritesBack p.1 (some rd) s

/-- R165, R166, R167: AND, OR and XOR in every stage. -/
def Obligations.AndOrXorRunInEveryStage : Prop :=
  ∀ (rd rs1 rs2 : Reg) (s : State),
    ∀ p ∈ [(Instr.and rd rs1 rs2, s.e.sourceValue1 &&& s.e.sourceValue2),
           (Instr.or rd rs1 rs2, s.e.sourceValue1 ||| s.e.sourceValue2),
           (Instr.xor rd rs1 rs2, s.e.sourceValue1 ^^^ s.e.sourceValue2)],
      p.1.opcode.format = .r3 ∧ ForwardedByFetch p.1 s ∧
      IssuesOrStalls p.1 (some rs1) (some rs2) (some rd) s ∧
      (s.stage = .execute → ExecutesToResult p.1 p.2 (decide (p.2 = 0)) s) ∧
      PassesMemory p.1 s ∧ WritesBack p.1 (some rd) s

/-- R164: DIV in every stage; in Execute it faults on the divisor 0 and on -2^31 / -1 (R251, R252), and
otherwise yields the quotient truncated toward zero. Truncation and the two faults are choices the
spec marks as its own (R160; notes/assumptions/16.md). -/
def Obligations.DivRunsOrFaults : Prop :=
  ∀ (rd rs1 rs2 : Reg) (s : State),
    let i := Instr.div rd rs1 rs2
    let a := s.e.sourceValue1.toInt
    let b := s.e.sourceValue2.toInt
    i.opcode.format = .r3 ∧ ForwardedByFetch i s ∧
    IssuesOrStalls i (some rs1) (some rs2) (some rd) s ∧
    (s.stage = .execute →
      (b = 0 → RaisesFault i .divideByZero s.e.pc s) ∧
      (a = -2 ^ 31 → b = -1 → RaisesFault i .divideOverflow s.e.pc s) ∧
      (b ≠ 0 → ¬(a = -2 ^ 31 ∧ b = -1) →
        ∃ v : Word, v.toInt = Int.tdiv a b ∧ ExecutesToResult i v (decide (v = 0)) s)) ∧
    PassesMemory i s ∧ WritesBack i (some rd) s

/-- R168, R169: ADDL and SUBL in every stage; Z is not changed. That SUBL subtracts is what R169
itself marks as general knowledge (notes/assumptions/16.md). -/
def Obligations.AddlSublRunInEveryStage : Prop :=
  ∀ (rd rs1 : Reg) (imm : Word) (s : State),
    ∀ p ∈ [(Instr.addl rd rs1 imm, s.e.sourceValue1 + imm),
           (Instr.subl rd rs1 imm, s.e.sourceValue1 - imm)],
      p.1.opcode.format = .ri ∧ ForwardedByFetch p.1 s ∧
      IssuesOrStalls p.1 (some rs1) none (some rd) s ∧
      (s.stage = .execute → ExecutesToResult p.1 p.2 s.z s) ∧
      PassesMemory p.1 s ∧ WritesBack p.1 (some rd) s

/-- R170: MOVC in every stage; it never stalls. -/
def Obligations.MovcRunsInEveryStage : Prop :=
  ∀ (rd : Reg) (imm : Word) (s : State),
    let i := Instr.movc rd imm
    i.opcode.format = .i ∧ ForwardedByFetch i s ∧ IssuesOrStalls i none none (some rd) s ∧
    (s.stage = .execute → ExecutesToResult i imm (decide (imm = 0)) s) ∧
    PassesMemory i s ∧ WritesBack i (some rd) s

/-- R171, R172: CMP in every stage; under `CMP_FALLTHROUGH` a CMP of equal values also takes a branch
to its own `pc` plus its own `imm`. -/
def Obligations.CmpRunsInEveryStage : Prop :=
  ∀ (rs1 rs2 : Reg) (s : State),
    let i := Instr.cmp rs1 rs2
    i.opcode.format = .c2 ∧ ForwardedByFetch i s ∧
    IssuesOrStalls i (some rs1) (some rs2) none s ∧
    (s.stage = .execute →
      (s.e.sourceValue1 ≠ s.e.sourceValue2 → ExecutesToZ i false s) ∧
      (s.e.sourceValue1 = s.e.sourceValue2 → s.cfg.cmpFallthrough = false →
        ExecutesToZ i true s) ∧
      (s.e.sourceValue1 = s.e.sourceValue2 → s.cfg.cmpFallthrough = true →
        ExecutesTakenBranch i (s.e.pc + s.e.imm) true s)) ∧
    PassesMemory i s ∧ WritesBack i none s

/-- R200, R202: LOAD and LDR in every stage, with the fault of R62 and R254. The wrap of the address
and the fault policy are decisions of the spec's own (notes/assumptions/16.md). -/
def Obligations.LoadsRunInEveryStage : Prop :=
  ∀ (rd rs1 rs2 : Reg) (imm : Word) (s : State),
    ((Instr.load rd rs1 imm).opcode.format = .ri ∧ ForwardedByFetch (.load rd rs1 imm) s ∧
      IssuesOrStalls (.load rd rs1 imm) (some rs1) none (some rd) s ∧
      (s.stage = .execute → ExecutesToAddress (.load rd rs1 imm) (s.e.sourceValue1 + imm) s) ∧
      LoadsCell (.load rd rs1 imm) s ∧ WritesBack (.load rd rs1 imm) (some rd) s) ∧
    ((Instr.ldr rd rs1 rs2).opcode.format = .r3 ∧ ForwardedByFetch (.ldr rd rs1 rs2) s ∧
      IssuesOrStalls (.ldr rd rs1 rs2) (some rs1) (some rs2) (some rd) s ∧
      (s.stage = .execute →
        ExecutesToAddress (.ldr rd rs1 rs2) (s.e.sourceValue1 + s.e.sourceValue2) s) ∧
      LoadsCell (.ldr rd rs1 rs2) s ∧ WritesBack (.ldr rd rs1 rs2) (some rd) s)

/-- R201, R203: STORE and STR in every stage, with the fault of R254. -/
def Obligations.StoresRunInEveryStage : Prop :=
  ∀ (rdata rs1 rs2 : Reg) (imm : Word) (s : State),
    ((Instr.store rdata rs1 imm).opcode.format = .si ∧ ForwardedByFetch (.store rdata rs1 imm) s ∧
      IssuesOrStalls (.store rdata rs1 imm) (some rs1) none none s ∧
      (s.stage = .execute → ExecutesToAddress (.store rdata rs1 imm) (s.e.sourceValue1 + imm) s) ∧
      StoresCell (.store rdata rs1 imm) rdata s ∧ WritesBack (.store rdata rs1 imm) none s) ∧
    ((Instr.str rdata rs1 rs2).opcode.format = .sr ∧ ForwardedByFetch (.str rdata rs1 rs2) s ∧
      IssuesOrStalls (.str rdata rs1 rs2) (some rs1) (some rs2) none s ∧
      (s.stage = .execute →
        ExecutesToAddress (.str rdata rs1 rs2) (s.e.sourceValue1 + s.e.sourceValue2) s) ∧
      StoresCell (.str rdata rs1 rs2) rdata s ∧ WritesBack (.str rdata rs1 rs2) none s)

/-- R230, R231: BZ and BNZ in every stage; the taken branch is R118's. -/
def Obligations.BranchesRunInEveryStage : Prop :=
  ∀ (imm : Word) (s : State),
    ∀ p ∈ [(Instr.bz imm, s.z), (Instr.bnz imm, !s.z)],
      p.1.opcode.format = .b ∧ ForwardedByFetch p.1 s ∧ IssuesOrStalls p.1 none none none s ∧
      (s.stage = .execute →
        (p.2 = true → ExecutesTakenBranch p.1 (s.e.pc + imm) s.z s) ∧
        (p.2 = false → ExecutesToZ p.1 s.z s)) ∧
      PassesMemory p.1 s ∧ WritesBack p.1 none s

/-- R232: HALT in every stage; forwarding it disables fetching, retiring it stops the core. That the
halting cycle is counted is the spec's own choice (R101; notes/assumptions/16.md). -/
def Obligations.HaltRunsInEveryStage : Prop :=
  ∀ s : State,
    Instr.halt.opcode.format = .n ∧
    (s.stage = .fetch → exec .halt s = .next { s with
      d := s.f, dIsStalled := s.fIsStalled, pc := s.pc + 4
      f := { s.f with hasInstruction := false } }) ∧
    IssuesOrStalls .halt none none none s ∧
    (s.stage = .execute → ExecutesToZ .halt s.z s) ∧ PassesMemory .halt s ∧
    (s.stage = .writeback → exec .halt s = .next { s with
      insnCompleted := s.insnCompleted + 1
      w := { s.w with hasInstruction := false }
      status := .halted
      clock := s.clock + 1 })

/-- R89: the hazard-class table is what every instruction does: the sources Decode checks and reads,
the destination invalidated at issue and written at Writeback, the register read at Memory, and the
Z written in Execute. -/
def Obligations.HazardTableGovernsEveryInstruction : Prop :=
  ∀ (i : Instr) (s : State),
    IssuesOrStalls i i.src1 i.src2 i.dest s ∧
    (i ≠ .halt → WritesBack i i.dest s) ∧
    (∀ t, s.stage = .writeback → exec i s = .next t → i.dest = none →
      t.x = s.x ∧ t.scoreboard = s.scoreboard) ∧
    (∀ r, i.storeData = some r → StoresCell i r s) ∧
    (∀ t, s.stage = .memory → exec i s = .next t → i.storeData = none → t.dmem = s.dmem) ∧
    (∀ t, s.stage = .execute → s.status = .running → exec i s = .next t → t.status = .running →
      (i.writesZ = false → t.z = s.z) ∧
      (i.writesZ = true → i.dest ≠ none → t.z = decide (t.m.resultValue = 0)) ∧
      (∀ rd imm, i = .movc rd imm → t.z = decide (imm = 0)) ∧
      (i.writesZ = true → i.dest = none →
        t.z = decide (s.e.sourceValue1 = s.e.sourceValue2)))

/-- One instruction alone in the pipeline has, from Decode to Writeback, its effect on a sequential
machine: registers, Z and memory; one more instruction is retired. Where the sequential machine
stops on a fault, so does the pipeline. -/
def Obligations.InstructionAloneHasItsSequentialEffect : Prop :=
  ∀ (i : Instr) (s : State), s.status = .running → s.d.holds i →
    s.sourceReady i.src1 = true → s.sourceReady i.src2 = true →
    match seqExec s i ⟨s.x, s.z, s.dmem, s.d.pc⟩ with
    | .next a => ∃ t, throughPipeline i s = .next t ∧ t.x = a.x ∧ t.z = a.z ∧ t.dmem = a.dmem ∧
        t.insnCompleted = s.insnCompleted + 1 ∧ t.status = .running ∧ t.w.hasInstruction = false
    | .halted a => ∃ t, throughPipeline i s = .next t ∧ t.x = a.x ∧ t.z = a.z ∧ t.dmem = a.dmem ∧
        t.insnCompleted = s.insnCompleted + 1 ∧ t.status = .halted
    | .stopped => ∃ t k info, throughPipeline i s = .next t ∧ t.status = .faulted k info ∧
        t.x = s.x ∧ t.dmem = s.dmem ∧ t.insnCompleted = s.insnCompleted

/-! ### Scoreboard, fetch and the stages -/

/-- R123: the scoreboard operations under each `SCOREBOARD_KIND`, and the output "valid". -/
def Obligations.ScoreboardOperationsByKind : Prop :=
  ∀ (r q : Reg),
    (∀ valid : Vector Bool 16,
      (Scoreboard.flag valid).ready r = valid[r] ∧
      ∃ v1 v2 : Vector Bool 16,
        (Scoreboard.flag valid).invalidate r = .flag v1 ∧ v1[r] = false ∧
        (Scoreboard.flag valid).restore r = .flag v2 ∧ v2[r] = true ∧
        (q ≠ r → v1[q] = valid[q] ∧ v2[q] = valid[q])) ∧
    (∀ pend : Vector Nat 16,
      ((Scoreboard.counter pend).ready r = true ↔ pend[r] = 0) ∧
      ∃ p1 p2 : Vector Nat 16,
        (Scoreboard.counter pend).invalidate r = .counter p1 ∧ p1[r] = pend[r] + 1 ∧
        (Scoreboard.counter pend).restore r = .counter p2 ∧ p2[r] = pend[r] - 1 ∧
        (q ≠ r → p1[q] = pend[q] ∧ p2[q] = pend[q])) ∧
    (∀ s : State, (s.report.registers[r]).2 = s.scoreboard.ready r)

/-- R110: `Load(a)`, with misalignment checked first, writes no control bit and only the Fetch
latch. -/
def Obligations.LoadReadsTheInstructionStore : Prop :=
  ∀ (s : State) (a : Word),
    let off : Int := a.toNat - s.cfg.baseAddr.toNat
    let l := s.loadedLatch a
    l.pc = a ∧ l.hasInstruction = s.f.hasInstruction ∧
    (off % 4 ≠ 0 → l.opcode = .invalid .fetchMisaligned) ∧
    (off % 4 = 0 → (off < 0 ∨ (s.istore.length : Int) ≤ off / 4) →
      l.opcode = .invalid .fetchOutOfRange) ∧
    (∀ (k : Nat) (r : Record), off = 4 * k → s.istore[k]? = some r →
      l.opcode = .known r.opcode ∧ l.rd = r.rd ∧ l.rs1 = r.rs1 ∧ l.rs2 = r.rs2 ∧ l.imm = r.imm ∧
      l.mnemonic = r.mnemonic ∧ l.poison = none) ∧
    s.loadAtPc = { s with f := s.loadedLatch s.pc }

/-- R104 to R109: the five cases of Fetch, with HALT disabling further fetching when it is
forwarded. `F.held` is the spec's own bit (R32; notes/assumptions/16.md). -/
def Obligations.FetchHasItsFiveCases : Prop :=
  ∀ s : State, s.stage = .fetch →
    let l := s.loadedLatch s.pc
    (s.redirect = true → fetchStage s = .next { s with redirect := false }) ∧
    (s.redirect = false → s.f.hasInstruction = true → s.fIsStalled = true →
      fetchStage s = .next { s with f := { l with hasInstruction := false }, fHeld := true }) ∧
    (s.redirect = false → s.f.hasInstruction = true → s.fIsStalled = false →
      fetchStage s = .next { s with
        f := if l.instr = some .halt then { l with hasInstruction := false } else l
        d := l, dIsStalled := false, pc := s.pc + 4 }) ∧
    (s.redirect = false → s.f.hasInstruction = false → s.fIsStalled = false → s.fHeld = true →
      fetchStage s = .next { s with
        f := { s.f with hasInstruction := decide (s.f.instr ≠ some .halt) }
        fHeld := false
        d := { s.f with hasInstruction := true }, dIsStalled := false, pc := s.pc + 4 }) ∧
    (s.redirect = false → s.f.hasInstruction = false → (s.fIsStalled = true ∨ s.fHeld = false) →
      fetchStage s = .next s)

/-- A step that evaluates a cycle runs, stage by stage in the order of R100, the instruction each
live latch holds: `exec` of it, and then the next stage unless the core has stopped; Fetch runs the
instruction it loads at the PC or resumes with. -/
def Obligations.StepRunsTheDecodedInstructions : Prop :=
  ∀ s : State, EvaluatesCycle s →
    step s = closeCycle (thenStage (thenStage (thenStage (thenStage
      (writebackStage { s with stage := .writeback }) .memory memoryStage) .execute executeStage)
      .decode decodeStage) .fetch fetchStage) ∧
    ∀ (t : State) (i : Instr),
      (t.w.holds i → writebackStage t = exec i t) ∧
      (t.m.holds i → memoryStage t = exec i t) ∧
      (t.e.holds i → executeStage t = exec i t) ∧
      (t.d.holds i → decodeStage t = exec i t) ∧
      (∀ r, t.redirect = false → t.f.hasInstruction = true → t.fIsStalled = false →
        t.fetchRecord t.pc = .ok r → fetchStage t = exec r.instr t.loadAtPc) ∧
      (t.redirect = false → t.f.hasInstruction = false → t.fIsStalled = false → t.fHeld = true →
        t.f.instr = some i → fetchStage t = exec i t.resumeFetch)

/-- R280: the first cycle fetches instruction 0 into Decode and moves the PC on; nothing else is
live. -/
def Obligations.FirstCycleFetchesInstructionZero : Prop :=
  ∀ (cfg : Config) (program : List Record) (r : Record),
    program[0]? = some r → cfg.maxCycles ≠ 0 →
    ∃ t, step (State.init cfg program) = .next t ∧ t.status = .running ∧
      t.d.holds r.instr ∧ t.d.pc = cfg.baseAddr ∧ t.pc = cfg.baseAddr + 4 ∧ t.clock = 1 ∧
      t.e.hasInstruction = false ∧ t.m.hasInstruction = false ∧ t.w.hasInstruction = false ∧
      t.x = (State.init cfg program).x ∧ t.dmem = (State.init cfg program).dmem ∧
      t.scoreboard = (State.init cfg program).scoreboard ∧ t.insnCompleted = 0

/-! ### What one step changes, and nothing else does -/

/-- R21: Writeback is the only writer of registers: a step changes a register only if a live
Writeback latch has it as destination, and then to that latch's result. -/
def Obligations.OnlyWritebackWritesRegisters : Prop :=
  ∀ (s t : State), step s = .next t → ∀ r : Reg,
    t.reg r = s.reg r ∨ (s.w.dest = some r ∧ t.reg r = s.w.resultValue)

/-- R28, R286: a step changes a data cell only by the store in the Memory latch, at its address, to
the value its data register holds after this cycle's Writeback. -/
def Obligations.OnlyStoresWriteDataMemory : Prop :=
  ∀ (s t : State), MemoryOk s → step s = .next t → ∀ k : Nat,
    t.dmem.read k = s.dmem.read k ∨
    (∃ i r, s.m.holds i ∧ i.storeData = some r ∧ (k : Int) = s.m.memoryAddress.toInt ∧
      k < s.cfg.dmemSize ∧ t.dmem.read k = t.reg r ∧
      t.reg r = if s.w.dest = some r then s.w.resultValue else s.reg r)

/-- R25: a step changes Z only by a Z-writing instruction in the Execute latch. -/
def Obligations.OnlyZWritersChangeZ : Prop :=
  ∀ (s t : State), step s = .next t → t.z ≠ s.z → ∃ i, s.e.holds i ∧ i.writesZ = true

/-- R24: a step leaves the PC, moves it on by 4 as Fetch forwards, or sets it to the Execute latch's
`pc + imm` by a taken branch. -/
def Obligations.PcMovesByForwardOrTakenBranch : Prop :=
  ∀ (s t : State), step s = .next t →
    t.pc = s.pc ∨ (t.pc = s.pc + 4 ∧ t.d.hasInstruction = true) ∨
    (s.e.TakesBranch s ∧ t.pc = s.e.pc + s.e.imm ∧ t.d.hasInstruction = false)

/-- R27, R39, R72: no step changes the Instruction Store or the configuration. -/
def Obligations.StoreAndConfigurationNeverChange : Prop :=
  ∀ (s t : State), step s = .next t → t.istore = s.istore ∧ t.cfg = s.cfg

/-- R34, R103: a final status never changes nor does anything else, and at the budget the core stops
before the cycle. That a step at a final state answers that state is the model's reading of R34
(notes/assumptions/9.md). -/
def Obligations.FinalStatesAndBudgetStop : Prop :=
  ∀ s : State,
    (s.status ≠ .running → step s = .next s) ∧
    (s.status = .running → s.clock = s.cfg.maxCycles →
      step s = .next { s with status := .budgetExhausted })

/-- R101, R121: every evaluated cycle is counted once, whether it ends in a halt, a fault or
neither, and retires the instruction of a live Writeback latch. That the halting cycle is counted is
the spec's own choice (R101; notes/assumptions/16.md). -/
def Obligations.CyclesAndRetirementsAreCounted : Prop :=
  ∀ (s t : State), EvaluatesCycle s → step s = .next t →
    t.clock = s.clock + 1 ∧
    t.insnCompleted = s.insnCompleted + (if s.w.hasInstruction then 1 else 0)

/-- R102, R121: when a HALT retires, the core stops before any other stage of that cycle. That the
halting cycle is counted is the spec's own choice (R101; notes/assumptions/16.md). -/
def Obligations.HaltStopsBeforeTheOtherStages : Prop :=
  ∀ s : State, EvaluatesCycle s → s.w.holdsHalt →
    step s = .next { s with
      insnCompleted := s.insnCompleted + 1
      w := { s.w with hasInstruction := false }
      status := .halted
      clock := s.clock + 1
      stage := .writeback }

/-- R250: a fault leaves the state as the stages before it left it, the faulting latch live, with
the status and the clock set; no later stage is evaluated. By stage: Memory, Execute, Decode. -/
def Obligations.FaultEndsTheCycleWhereRaised : Prop :=
  ∀ s s1 : State, EvaluatesCycle s →
    writebackStage { s with stage := .writeback } = .next s1 → s1.status = .running →
    (∀ i, s1.m.holds i → i.accessesMemory = true → s1.cellIndex s1.m.memoryAddress = none →
      step s = .next { s1 with
        status := .faulted .dataAddressOutOfRange s1.m.memoryAddress
        clock := s.clock + 1, stage := .writeback }) ∧
    (∀ s2, memoryStage { s1 with stage := .memory } = .next s2 → s2.status = .running →
      (∀ rd rs1 rs2 k, s2.e.holds (.div rd rs1 rs2) →
        divWord s2.e.sourceValue1 s2.e.sourceValue2 = .error k →
        step s = .next { s2 with
          status := .faulted k s2.e.pc, clock := s.clock + 1, stage := .writeback }) ∧
      (∀ s3 p, executeStage { s2 with stage := .execute } = .next s3 → s3.status = .running →
        s3.d.hasInstruction = true → s3.d.opcode = .invalid p →
        step s = .next { s3 with
          status := .faulted p.faultKind s3.d.pc, clock := s.clock + 1, stage := .writeback }))

/-- R251 to R254: the causes and the info of the faults, and their codes. -/
def Obligations.FaultsHaveTheirCauses : Prop :=
  ∀ (s t : State) (k : FaultKind) (info : Word),
    s.status = .running → step s = .next t → t.status = .faulted k info →
    match k with
    | .divideByZero => k.code = 1 ∧ info = s.e.pc ∧ t.e = s.e ∧
        ∃ rd rs1 rs2, s.e.holds (.div rd rs1 rs2) ∧ s.e.sourceValue2 = 0
    | .divideOverflow => k.code = 2 ∧ info = s.e.pc ∧ t.e = s.e ∧
        ∃ rd rs1 rs2, s.e.holds (.div rd rs1 rs2) ∧ s.e.sourceValue1.toInt = -2 ^ 31 ∧
          s.e.sourceValue2.toInt = -1
    | .fetchOutOfRange => k.code = 3 ∧ info = s.d.pc ∧ t.d = s.d ∧ s.d.hasInstruction = true ∧
        s.d.opcode = .invalid .fetchOutOfRange
    | .fetchMisaligned => k.code = 4 ∧ info = s.d.pc ∧ t.d = s.d ∧ s.d.hasInstruction = true ∧
        s.d.opcode = .invalid .fetchMisaligned
    | .dataAddressOutOfRange => k.code = 5 ∧ info = s.m.memoryAddress ∧ t.m = s.m ∧
        (∃ i, s.m.holds i ∧ i.accessesMemory = true) ∧
        (s.m.memoryAddress.toInt < 0 ∨ (s.cfg.dmemSize : Int) ≤ s.m.memoryAddress.toInt)

/-- R256: of several instructions that would fault in one cycle, the oldest is reported. -/
def Obligations.TheOldestFaultIsReported : Prop :=
  ∀ (s t : State) (i : Instr) (rd rs1 rs2 : Reg) (k : FaultKind) (p : Poison),
    EvaluatesCycle s → ¬s.w.holdsHalt → step s = .next t →
    (s.m.holds i → i.accessesMemory = true → s.cellIndex s.m.memoryAddress = none →
      t.status = .faulted .dataAddressOutOfRange s.m.memoryAddress) ∧
    ((s.m.hasInstruction = false ∨ (s.m.holds i ∧ i.accessesMemory = false)) →
      s.e.holds (.div rd rs1 rs2) → divWord s.e.sourceValue1 s.e.sourceValue2 = .error k →
      s.d.hasInstruction = true → s.d.opcode = .invalid p → t.status = .faulted k s.e.pc)

/-- R118, R104, R125: a branch taken in Execute (BZ, BNZ, and CMP under `CMP_FALLTHROUGH`, which also
sets Z, R172) sets the PC to its own `pc` plus its `imm`, flushes the Decode latch, re-enables Fetch,
and the cycle's Fetch is skipped; the branch moves on to Memory. -/
def Obligations.TakenBranchFlushesAndSkipsFetch : Prop :=
  ∀ (s s1 s2 : State), EvaluatesCycle s →
    writebackStage { s with stage := .writeback } = .next s1 → s1.status = .running →
    memoryStage { s1 with stage := .memory } = .next s2 → s2.status = .running →
    s2.e.TakesBranch s2 →
    step s = .next { s2 with
      pc := s2.e.pc + s2.e.imm
      redirect := false
      d := { s2.d with hasInstruction := false }
      f := { s2.f with hasInstruction := true }
      z := s2.z || decide (s2.e.opcode = .known .cmp)
      m := s2.e
      e := { s2.e with hasInstruction := false }
      clock := s.clock + 1
      stage := .writeback }

/-- R113, R105, R109: an instruction that cannot issue holds Decode and Fetch: the state the Execute
stage left gets both stall flags, the Fetch latch holds the instruction at the PC, and nothing else
changes. -/
def Obligations.StallHoldsDecodeAndFetch : Prop :=
  ∀ (s s1 s2 s3 : State) (i : Instr) (r : Reg), EvaluatesCycle s →
    writebackStage { s with stage := .writeback } = .next s1 → s1.status = .running →
    memoryStage { s1 with stage := .memory } = .next s2 → s2.status = .running →
    executeStage { s2 with stage := .execute } = .next s3 → s3.status = .running →
    s3.redirect = false → s3.d.holds i → (i.src1 = some r ∨ i.src2 = some r) →
    s3.scoreboard.ready r = false →
    (s3.f.hasInstruction = true → step s = .next { s3 with
      dIsStalled := true, fIsStalled := true
      f := { s3.loadedLatch s3.pc with hasInstruction := false }
      fHeld := true
      clock := s.clock + 1
      stage := .writeback }) ∧
    (s3.f.hasInstruction = false → step s = .next { s3 with
      dIsStalled := true, fIsStalled := true, clock := s.clock + 1, stage := .writeback })

/-- R124: in the cycle in which the stalled instruction's sources are ready it issues, and Fetch
forwards the held instruction and moves the PC on in the same cycle. -/
def Obligations.IssueResumesTheHeldFetch : Prop :=
  ∀ (s s1 s2 s3 t : State) (i : Instr), EvaluatesCycle s → ControlBits s →
    writebackStage { s with stage := .writeback } = .next s1 → s1.status = .running →
    memoryStage { s1 with stage := .memory } = .next s2 → s2.status = .running →
    executeStage { s2 with stage := .execute } = .next s3 → s3.status = .running →
    s.dIsStalled = true → s.fHeld = true → s.d.holds i →
    (∀ r, i.src1 = some r ∨ i.src2 = some r → s3.scoreboard.ready r = true) →
    step s = .next t →
      t.e = { s.d with
        sourceValue1 := i.src1.elim s.d.sourceValue1 s1.reg
        sourceValue2 := i.src2.elim s.d.sourceValue2 s1.reg } ∧
      t.d = { s.f with hasInstruction := true } ∧ t.pc = s.pc + 4 ∧
      t.dIsStalled = false ∧ t.fIsStalled = false ∧ t.fHeld = false

/-- R126: no live latch is overwritten: when a stage copies its latch on, the next latch is not
live. Stage by stage, as far as the cycle runs. -/
def Obligations.NoLiveLatchIsOverwritten : Prop :=
  ∀ (s s1 : State), ControlBits s → EvaluatesCycle s →
    writebackStage { s with stage := .writeback } = .next s1 → s1.status = .running →
    s1.w.hasInstruction = false ∧
    ∀ s2, memoryStage { s1 with stage := .memory } = .next s2 → s2.status = .running →
      s2.m.hasInstruction = false ∧
      ∀ s3, executeStage { s2 with stage := .execute } = .next s3 → s3.status = .running →
        s3.e.hasInstruction = false ∧
        ∀ s4 s5, decodeStage { s3 with stage := .decode } = .next s4 → s4.status = .running →
          fetchStage { s4 with stage := .fetch } = .next s5 →
          s5.d = s4.d ∨ s4.d.hasInstruction = false

/-! ### Invariants every step keeps -/

/-- R128, R127: the control bits at cycle boundaries. -/
def Obligations.StepKeepsControlBits : Prop :=
  ∀ (s t : State), ControlBits s → step s = .next t → ControlBits t

/-- R111: no poisoned latch gets past Decode. -/
def Obligations.StepKeepsDecodedPastDecode : Prop :=
  ∀ (s t : State), DecodedPastDecode s → step s = .next t → DecodedPastDecode t

/-- R129: nothing behind HALT. -/
def Obligations.StepKeepsNothingBehindHalt : Prop :=
  ∀ (s t : State), ControlBits s → NothingBehindHalt s → step s = .next t → NothingBehindHalt t

/-- R123, Counter: `pend[r]` counts the issued, unretired instructions with destination r. -/
def Obligations.StepKeepsWriterCounts : Prop :=
  ∀ (s t : State), CountsWriters s → step s = .next t → CountsWriters t

/-- R22: under Flag, a register that is not valid has a writer in flight. -/
def Obligations.StepKeepsInvalidHasWriter : Prop :=
  ∀ (s t : State), InvalidHasWriter s → step s = .next t → InvalidHasWriter t

/-- R28, R62: data memory keeps its canonical form and never lists a cell that does not exist. -/
def Obligations.StepKeepsMemoryCanonical : Prop :=
  ∀ (s t : State), MemoryOk s → step s = .next t → MemoryOk t

/-- R261, R39: `insn_completed <= clock <= MAX_CYCLES`, and the scoreboard stays of its kind. -/
def Obligations.StepKeepsCountersAndKind : Prop :=
  ∀ (s t : State), CountersBounded s → KindAsConfigured s → step s = .next t →
    CountersBounded t ∧ KindAsConfigured t

/-- R24, R27, R31: every live latch carries the record the Instruction Store keeps at its own address,
or the poison of a fetch there. -/
def Obligations.StepKeepsLatchesFromStore : Prop :=
  ∀ (s t : State), LatchesFromStore s → step s = .next t → LatchesFromStore t

/-! ### Whole runs -/

/-- No step of a state without a poisoned latch past Decode ends outside the spec. The fault that
stands for such an end is the model's (notes/assumptions/7.md). -/
def Obligations.StepsNeverEndOutsideTheSpec : Prop :=
  ∀ s : State, DecodedPastDecode s → StepSafe s

/-- R289, R288: every run ends, within the cycle budget, in one of the three final outcomes. -/
def Obligations.EveryRunEndsWithinTheBudget : Prop :=
  ∀ s : State, DecodedPastDecode s → CountersBounded s →
    ∃ t, runToEnd s = .next t ∧ t.clock ≤ s.cfg.maxCycles ∧ CountersBounded t ∧
      (t.status = .halted ∨ t.status = .budgetExhausted ∨ ∃ k info, t.status = .faulted k info)

/-- R289: when the core halts, no latch is live and every register is valid, under either
scoreboard. -/
def Obligations.HaltLeavesEveryRegisterValid : Prop :=
  ∀ (s t : State), NothingBehindHalt s → CountsWriters s → InvalidHasWriter s →
    s.status = .running → step s = .next t → t.status = .halted →
    (∀ r, t.scoreboard.ready r = true) ∧ t.d.hasInstruction = false ∧
    t.e.hasInstruction = false ∧ t.m.hasInstruction = false ∧ t.w.hasInstruction = false

/-- R287: an instruction stalls in Decode for at most two cycles running. -/
def Obligations.StallsLastAtMostTwoCycles : Prop :=
  ∀ (s t1 t2 t3 : State), ControlBits s → CountsWriters s → InvalidHasWriter s →
    step s = .next t1 → step t1 = .next t2 → step t2 = .next t3 → t3.status = .running →
    t1.dIsStalled = false ∨ t2.dIsStalled = false ∨ t3.dIsStalled = false

/-- R130: under `SCOREBOARD_KIND = Counter`, a run that halts has the registers, Z and memory of the
sequential machine after as many instructions, which is then at its HALT. -/
def Obligations.PipelineEqualsSequentialMachine : Prop :=
  ∀ (cfg : Config) (program : List RawRecord) (s t : State) (k : Nat),
    cfg.scoreboardKind = .counter → construct cfg program = .ok s →
    runSteps k s = .next t → t.status = .halted →
    ∃ a, seqRun s t.insnCompleted s.arch = .halted a ∧
      a.x = t.x ∧ a.z = t.z ∧ a.dmem = t.dmem ∧ t.pc = a.pc + 4

/-- R287: a run that halts takes one cycle for each retired instruction, four to fill the pipeline,
one for each stall and two for each taken branch. -/
def Obligations.HaltedRunsTakeTheirCycles : Prop :=
  ∀ (cfg : Config) (program : List RawRecord) (s t : State) (k : Nat),
    construct cfg program = .ok s → runSteps k s = .next t → t.status = .halted →
    t.clock = t.insnCompleted + 4 + countSteps stallsIn k s + 2 * countSteps redirectsIn k s

/-- R140: `RUN_MODE` has no effect on any state: a step in the other mode gives the same state but
for the mode. -/
def Obligations.RunModeHasNoEffect : Prop :=
  ∀ (s : State) (mode : RunMode),
    let other (u : State) : State := { u with cfg := { u.cfg with runMode := mode } }
    match step s with
    | .next t => step (other s) = .next (other t)
    | .fault r => step (other s) = .fault r
    | .refused r => step (other s) = .refused r

/-- R31: the fields of a D, E, M or W latch that is not live are never read: states that agree on
all else step alike. -/
def Obligations.DeadLatchesAreNeverRead : Prop :=
  ∀ (s s' : State), s.scrub = s'.scrub →
    match step s, step s' with
    | .next t, .next t' => t.scrub = t'.scrub
    | .fault r, .fault r' => r = r'
    | .refused r, .refused r' => r = r'
    | _, _ => False

/-- R141: the trace shows one observation per evaluated stage, in evaluation order: whether the latch
the stage evaluated was live as the stage began and, if so, its `pc` and `mnemonic`. Before its own
stage a cycle changes a latch only by a taken branch, which flushes Decode's and re-enables Fetch's. A
cycle that halts shows Writeback alone, one that faults the stages up to the faulting one, and no
cycle shows nothing. That the latch is seen as the stage begins, and what mnemonic a poisoned latch
has, is notes/assumptions/14.md. -/
def Obligations.TraceShowsEveryEvaluatedStage : Prop :=
  ∀ (s t : State), step s = .next t →
    let seen (st : Stage) (l : Latch) : Observation :=
      ⟨st, if l.hasInstruction then some (l.pc, l.mnemonic) else none⟩
    (¬EvaluatesCycle s → cycleTrace s = []) ∧
    (EvaluatesCycle s →
      match t.status with
      | .running =>
          (¬s.e.TakesBranch s → cycleTrace s =
            [seen .writeback s.w, seen .memory s.m, seen .execute s.e, seen .decode s.d,
              seen .fetch s.f]) ∧
          (s.e.TakesBranch s → cycleTrace s =
            [seen .writeback s.w, seen .memory s.m, seen .execute s.e, ⟨.decode, none⟩,
              ⟨.fetch, some (s.f.pc, s.f.mnemonic)⟩])
      | .halted => cycleTrace s = [seen .writeback s.w]
      | .faulted .dataAddressOutOfRange _ =>
          cycleTrace s = [seen .writeback s.w, seen .memory s.m]
      | .faulted .divideByZero _ | .faulted .divideOverflow _ =>
          cycleTrace s = [seen .writeback s.w, seen .memory s.m, seen .execute s.e]
      | .faulted .fetchOutOfRange _ | .faulted .fetchMisaligned _ =>
          cycleTrace s =
            [seen .writeback s.w, seen .memory s.m, seen .execute s.e, seen .decode s.d]
      | .budgetExhausted => False)
end

