-- ==== Sys2Proof/Laws/Arith.lean ====
section
/-!
SUPPORT. The arithmetic of Operands.lean, written on mathematical integers as R9 writes it, is the
arithmetic of 32-bit patterns.
-/

namespace Sys2Proof.Machine

/-- R160, R161: the wrapped sum. -/
theorem addWord_eq (a b : Word) : addWord a b = a + b := by
  simp [addWord, s32, BitVec.ofInt_add]

/-- R160, R162: the wrapped difference. -/
theorem subWord_eq (a b : Word) : subWord a b = a - b := by
  apply BitVec.eq_of_toInt_eq
  simp [subWord, s32, BitVec.toInt_ofInt, BitVec.toInt_sub]

/-- R160, R163: the low 32 bits of the product. -/
theorem mulWord_eq (a b : Word) : mulWord a b = a * b := by
  simp [mulWord, s32, BitVec.ofInt_mul]

/-- R204: the wrapped address sum. -/
theorem effectiveAddress_eq (a b : Word) : effectiveAddress a b = a + b := addWord_eq a b

/-- R230: the branch target is the wrapped sum of the patterns. -/
theorem branchTarget_eq (pc imm : Word) : branchTarget pc imm = pc + imm := by
  apply BitVec.eq_of_toNat_eq
  have := BitVec.toInt_eq_toNat_bmod imm
  simp only [branchTarget, u32]
  rw [BitVec.ofInt_add, BitVec.ofInt_toInt, BitVec.ofInt_natCast, BitVec.ofNat_toNat]
  simp

/-- R106: the next instruction's address. -/
theorem nextPc_eq (pc : Word) : nextPc pc = pc + 4 := by
  simp only [nextPc, u32]
  rw [BitVec.ofInt_add, BitVec.ofInt_natCast, BitVec.ofNat_toNat]
  simp

/-- R164: DIV raises DivideByZero exactly when the divisor is 0. -/
theorem divWord_zero_iff (a b : Word) : divWord a b = .error .divideByZero ↔ b.toInt = 0 := by
  unfold divWord
  split
  · simp [*]
  · split <;> simp [*]

/-- R164: DIV raises DivideOverflow exactly on -2^31 / -1. -/
theorem divWord_overflow_iff (a b : Word) :
    divWord a b = .error .divideOverflow ↔ a.toInt = -2 ^ 31 ∧ b.toInt = -1 := by
  unfold divWord
  split
  · next h => simp; omega
  · split
    · simp [*]
    · next h => simp only [reduceCtorEq, false_iff]; exact h

/-- R164: otherwise DIV yields the quotient truncated toward zero, which fits. -/
theorem divWord_ok (a b : Word) (h0 : b.toInt ≠ 0) (h1 : ¬(a.toInt = -2 ^ 31 ∧ b.toInt = -1)) :
    divWord a b = .ok (s32 (Int.tdiv a.toInt b.toInt)) := by
  simp only [divWord, quot, if_neg h0, if_neg h1]

/-- R164: DIV's quotient is the bit-vector machine's signed quotient. -/
theorem divWord_ok_sdiv (a b : Word) (h0 : b.toInt ≠ 0)
    (h1 : ¬(a.toInt = -2 ^ 31 ∧ b.toInt = -1)) : divWord a b = .ok (a.sdiv b) := by
  rw [divWord_ok a b h0 h1]
  congr 1
  rw [s32, ← BitVec.toInt_inj, BitVec.toInt_sdiv, BitVec.toInt_ofInt]

end Sys2Proof.Machine
end

