-- ==== Sys2Proof/Laws/Memory.lean ====
section
/-!
SUPPORT. The laws of data memory: a read after a write, the canonical form kept by every operation,
and equal memories from equal reads.
-/

namespace Sys2Proof.Machine

theorem readCells_writeCells_self (cells : List (Nat × Word)) (k : Nat) (v : Word)
    (h : cells.Pairwise (fun c c' => c.1 < c'.1)) : readCells (writeCells cells k v) k = v := by
  induction cells with
  | nil => unfold writeCells; split <;> simp [readCells, *]
  | cons c rest ih =>
    obtain ⟨a, u⟩ := c
    rw [List.pairwise_cons] at h
    have absent : ∀ l : List (Nat × Word), (∀ c ∈ l, k < c.1) → readCells l k = 0 := by
      intro l
      induction l with
      | nil => intro _; rfl
      | cons d l ihl =>
        intro hl
        have hd := hl d (by simp)
        obtain ⟨b, w⟩ := d
        simp only [readCells]
        rw [if_neg (by simp at hd; omega)]
        exact ihl fun c hc => hl c (by simp [hc])
    unfold writeCells
    split
    · next hk =>
      split
      · next hv =>
        rw [hv]
        apply absent
        intro c hc
        rcases List.mem_cons.mp hc with rfl | hc
        · exact hk
        · exact lt_trans hk (h.1 c hc)
      · simp [readCells]
    · split
      · next hk =>
        subst hk
        split
        · next hv => rw [hv]; exact absent rest h.1
        · simp [readCells]
      · next hk hne =>
        simp only [readCells]
        rw [if_neg (fun e => hne e.symm)]
        exact ih h.2

theorem readCells_writeCells_other (cells : List (Nat × Word)) (k j : Nat) (v : Word)
    (hkj : k ≠ j) : readCells (writeCells cells k v) j = readCells cells j := by
  induction cells with
  | nil => unfold writeCells; split <;> simp [readCells, hkj]
  | cons c rest ih =>
    obtain ⟨a, u⟩ := c
    unfold writeCells
    split
    · split <;> simp [readCells, hkj]
    · split
      · next hk =>
        subst hk
        split <;> simp [readCells, hkj]
      · simp only [readCells]
        split
        · rfl
        · exact ih

/-- Every index a written list has is the written one or was there before. -/
theorem mem_writeCells {cells : List (Nat × Word)} {k : Nat} {v : Word} {c : Nat × Word}
    (h : c ∈ writeCells cells k v) : (c = (k, v) ∧ v ≠ 0) ∨ c ∈ cells := by
  induction cells with
  | nil =>
    unfold writeCells at h
    split at h
    · simp at h
    · next hv => simp at h; exact Or.inl ⟨h, hv⟩
  | cons d rest ih =>
    obtain ⟨a, u⟩ := d
    unfold writeCells at h
    split at h
    · split at h
      · exact Or.inr h
      · next hv =>
        rcases List.mem_cons.mp h with rfl | h
        · exact Or.inl ⟨rfl, hv⟩
        · exact Or.inr h
    · split at h
      · split at h
        · exact Or.inr (List.mem_cons_of_mem _ h)
        · next hv =>
          rcases List.mem_cons.mp h with rfl | h
          · exact Or.inl ⟨rfl, hv⟩
          · exact Or.inr (List.mem_cons_of_mem _ h)
      · rcases List.mem_cons.mp h with rfl | h
        · exact Or.inr (by simp)
        · rcases ih h with h | h
          · exact Or.inl h
          · exact Or.inr (List.mem_cons_of_mem _ h)

theorem writeCells_pairwise (cells : List (Nat × Word)) (k : Nat) (v : Word)
    (h : cells.Pairwise (fun c c' => c.1 < c'.1)) :
    (writeCells cells k v).Pairwise (fun c c' => c.1 < c'.1) := by
  induction cells with
  | nil => unfold writeCells; split <;> simp
  | cons c rest ih =>
    obtain ⟨a, u⟩ := c
    have h' := List.pairwise_cons.mp h
    unfold writeCells
    split
    · next hk =>
      split
      · exact h
      · refine List.pairwise_cons.mpr ⟨?_, h⟩
        intro c hc
        rcases List.mem_cons.mp hc with rfl | hc
        · exact hk
        · exact lt_trans hk (h'.1 c hc)
    · split
      · next hk =>
        subst hk
        split
        · exact h'.2
        · exact List.pairwise_cons.mpr ⟨h'.1, h'.2⟩
      · next hk hne =>
        refine List.pairwise_cons.mpr ⟨?_, ih h'.2⟩
        intro c hc
        rcases mem_writeCells hc with ⟨rfl, _⟩ | hc
        · show a < k
          omega
        · exact h'.1 c hc

/-- A write keeps the canonical form. -/
theorem Memory.write_wf (mem : Memory) (k : Nat) (v : Word) (h : mem.wf) : (mem.write k v).wf := by
  refine ⟨writeCells_pairwise _ _ _ h.1, ?_⟩
  intro c hc
  rcases mem_writeCells hc with ⟨rfl, hv⟩ | hc
  · exact hv
  · exact h.2 c hc

/-- Reset memory has the canonical form. -/
theorem Memory.empty_wf : Memory.wf ⟨[]⟩ := by simp [Memory.wf]

/-- The memory of the reset state is in canonical form (R38). -/
theorem State.reset_dmem_wf : State.reset.dmem.wf := Memory.empty_wf

/-- A read of the written cell gives the written value. -/
theorem Memory.read_write_self (mem : Memory) (k : Nat) (v : Word) (h : mem.wf) :
    (mem.write k v).read k = v :=
  readCells_writeCells_self _ _ _ h.1

/-- A write leaves every other cell alone. -/
theorem Memory.read_write_other (mem : Memory) (k j : Nat) (v : Word) (h : k ≠ j) :
    (mem.write k v).read j = mem.read j :=
  readCells_writeCells_other _ _ _ _ h

/-- Every cell of reset memory reads 0 (R38). -/
@[simp] theorem Memory.read_empty (k : Nat) : Memory.read ⟨[]⟩ k = 0 := rfl

/-- A write within the bound keeps every listed index within it. -/
theorem Memory.write_indices (mem : Memory) (k n : Nat) (v : Word) (hk : k < n)
    (h : ∀ c ∈ mem.cells, c.1 < n) : ∀ c ∈ (mem.write k v).cells, c.1 < n := by
  intro c hc
  rcases mem_writeCells hc with ⟨rfl, _⟩ | hc
  · exact hk
  · exact h c hc

/-- A data address names a cell below `DMEM_SIZE` (R61). -/
theorem State.cellIndex_some {s : State} {a : Word} {k : Nat} (h : s.cellIndex a = some k) :
    k < s.cfg.dmemSize ∧ (k : Int) = a.toInt := by
  unfold State.cellIndex at h
  split at h
  · next hr =>
    cases h
    omega
  · cases h

/-- A data address out of range names no cell (R61). -/
theorem State.cellIndex_none_iff (s : State) (a : Word) :
    s.cellIndex a = none ↔ a.toInt < 0 ∨ (s.cfg.dmemSize : Int) ≤ a.toInt := by
  unfold State.cellIndex
  split
  · next h => simp; omega
  · next h => simp only [true_iff]; omega

end Sys2Proof.Machine
end

