-- ==== Sys2Proof/Laws/State.lean ====
section
/-!
SUPPORT. One lemma per field per named update of the state and of a latch, each true by rfl, so that
no later proof unfolds a record update.
-/

namespace Sys2Proof.Machine

section Fields

variable (s : State) (l : Latch)

/-! ### setReg (R10) -/

@[simp] theorem State.setReg_cfg (r : Reg) (v : Word) : (s.setReg r v).cfg = s.cfg := rfl
@[simp] theorem State.setReg_istore (r : Reg) (v : Word) : (s.setReg r v).istore = s.istore := rfl
@[simp] theorem State.setReg_x (r : Reg) (v : Word) : (s.setReg r v).x = s.x.set r v := rfl
@[simp] theorem State.setReg_scoreboard (r : Reg) (v : Word) : (s.setReg r v).scoreboard = s.scoreboard := rfl
@[simp] theorem State.setReg_pc (r : Reg) (v : Word) : (s.setReg r v).pc = s.pc := rfl
@[simp] theorem State.setReg_z (r : Reg) (v : Word) : (s.setReg r v).z = s.z := rfl
@[simp] theorem State.setReg_redirect (r : Reg) (v : Word) : (s.setReg r v).redirect = s.redirect := rfl
@[simp] theorem State.setReg_dmem (r : Reg) (v : Word) : (s.setReg r v).dmem = s.dmem := rfl
@[simp] theorem State.setReg_clock (r : Reg) (v : Word) : (s.setReg r v).clock = s.clock := rfl
@[simp] theorem State.setReg_insnCompleted (r : Reg) (v : Word) : (s.setReg r v).insnCompleted = s.insnCompleted := rfl
@[simp] theorem State.setReg_status (r : Reg) (v : Word) : (s.setReg r v).status = s.status := rfl
@[simp] theorem State.setReg_f (r : Reg) (v : Word) : (s.setReg r v).f = s.f := rfl
@[simp] theorem State.setReg_fIsStalled (r : Reg) (v : Word) : (s.setReg r v).fIsStalled = s.fIsStalled := rfl
@[simp] theorem State.setReg_fHeld (r : Reg) (v : Word) : (s.setReg r v).fHeld = s.fHeld := rfl
@[simp] theorem State.setReg_d (r : Reg) (v : Word) : (s.setReg r v).d = s.d := rfl
@[simp] theorem State.setReg_dIsStalled (r : Reg) (v : Word) : (s.setReg r v).dIsStalled = s.dIsStalled := rfl
@[simp] theorem State.setReg_e (r : Reg) (v : Word) : (s.setReg r v).e = s.e := rfl
@[simp] theorem State.setReg_m (r : Reg) (v : Word) : (s.setReg r v).m = s.m := rfl
@[simp] theorem State.setReg_w (r : Reg) (v : Word) : (s.setReg r v).w = s.w := rfl
@[simp] theorem State.setReg_stage (r : Reg) (v : Word) : (s.setReg r v).stage = s.stage := rfl

/-! ### tick (R101) -/

@[simp] theorem State.tick_cfg : s.tick.cfg = s.cfg := rfl
@[simp] theorem State.tick_istore : s.tick.istore = s.istore := rfl
@[simp] theorem State.tick_x : s.tick.x = s.x := rfl
@[simp] theorem State.tick_scoreboard : s.tick.scoreboard = s.scoreboard := rfl
@[simp] theorem State.tick_pc : s.tick.pc = s.pc := rfl
@[simp] theorem State.tick_z : s.tick.z = s.z := rfl
@[simp] theorem State.tick_redirect : s.tick.redirect = s.redirect := rfl
@[simp] theorem State.tick_dmem : s.tick.dmem = s.dmem := rfl
@[simp] theorem State.tick_clock : s.tick.clock = s.clock + 1 := rfl
@[simp] theorem State.tick_insnCompleted : s.tick.insnCompleted = s.insnCompleted := rfl
@[simp] theorem State.tick_status : s.tick.status = s.status := rfl
@[simp] theorem State.tick_f : s.tick.f = s.f := rfl
@[simp] theorem State.tick_fIsStalled : s.tick.fIsStalled = s.fIsStalled := rfl
@[simp] theorem State.tick_fHeld : s.tick.fHeld = s.fHeld := rfl
@[simp] theorem State.tick_d : s.tick.d = s.d := rfl
@[simp] theorem State.tick_dIsStalled : s.tick.dIsStalled = s.dIsStalled := rfl
@[simp] theorem State.tick_e : s.tick.e = s.e := rfl
@[simp] theorem State.tick_m : s.tick.m = s.m := rfl
@[simp] theorem State.tick_w : s.tick.w = s.w := rfl
@[simp] theorem State.tick_stage : s.tick.stage = s.stage := rfl

/-! ### raiseFault (R250) -/

@[simp] theorem State.raiseFault_cfg (k : FaultKind) (a : Word) : (s.raiseFault k a).cfg = s.cfg := rfl
@[simp] theorem State.raiseFault_istore (k : FaultKind) (a : Word) : (s.raiseFault k a).istore = s.istore := rfl
@[simp] theorem State.raiseFault_x (k : FaultKind) (a : Word) : (s.raiseFault k a).x = s.x := rfl
@[simp] theorem State.raiseFault_scoreboard (k : FaultKind) (a : Word) : (s.raiseFault k a).scoreboard = s.scoreboard := rfl
@[simp] theorem State.raiseFault_pc (k : FaultKind) (a : Word) : (s.raiseFault k a).pc = s.pc := rfl
@[simp] theorem State.raiseFault_z (k : FaultKind) (a : Word) : (s.raiseFault k a).z = s.z := rfl
@[simp] theorem State.raiseFault_redirect (k : FaultKind) (a : Word) : (s.raiseFault k a).redirect = s.redirect := rfl
@[simp] theorem State.raiseFault_dmem (k : FaultKind) (a : Word) : (s.raiseFault k a).dmem = s.dmem := rfl
@[simp] theorem State.raiseFault_clock (k : FaultKind) (a : Word) : (s.raiseFault k a).clock = s.clock + 1 := rfl
@[simp] theorem State.raiseFault_insnCompleted (k : FaultKind) (a : Word) : (s.raiseFault k a).insnCompleted = s.insnCompleted := rfl
@[simp] theorem State.raiseFault_status (k : FaultKind) (a : Word) : (s.raiseFault k a).status = .faulted k a := rfl
@[simp] theorem State.raiseFault_f (k : FaultKind) (a : Word) : (s.raiseFault k a).f = s.f := rfl
@[simp] theorem State.raiseFault_fIsStalled (k : FaultKind) (a : Word) : (s.raiseFault k a).fIsStalled = s.fIsStalled := rfl
@[simp] theorem State.raiseFault_fHeld (k : FaultKind) (a : Word) : (s.raiseFault k a).fHeld = s.fHeld := rfl
@[simp] theorem State.raiseFault_d (k : FaultKind) (a : Word) : (s.raiseFault k a).d = s.d := rfl
@[simp] theorem State.raiseFault_dIsStalled (k : FaultKind) (a : Word) : (s.raiseFault k a).dIsStalled = s.dIsStalled := rfl
@[simp] theorem State.raiseFault_e (k : FaultKind) (a : Word) : (s.raiseFault k a).e = s.e := rfl
@[simp] theorem State.raiseFault_m (k : FaultKind) (a : Word) : (s.raiseFault k a).m = s.m := rfl
@[simp] theorem State.raiseFault_w (k : FaultKind) (a : Word) : (s.raiseFault k a).w = s.w := rfl
@[simp] theorem State.raiseFault_stage (k : FaultKind) (a : Word) : (s.raiseFault k a).stage = s.stage := rfl

/-! ### haltCore (R102) -/

@[simp] theorem State.haltCore_cfg : s.haltCore.cfg = s.cfg := rfl
@[simp] theorem State.haltCore_istore : s.haltCore.istore = s.istore := rfl
@[simp] theorem State.haltCore_x : s.haltCore.x = s.x := rfl
@[simp] theorem State.haltCore_scoreboard : s.haltCore.scoreboard = s.scoreboard := rfl
@[simp] theorem State.haltCore_pc : s.haltCore.pc = s.pc := rfl
@[simp] theorem State.haltCore_z : s.haltCore.z = s.z := rfl
@[simp] theorem State.haltCore_redirect : s.haltCore.redirect = s.redirect := rfl
@[simp] theorem State.haltCore_dmem : s.haltCore.dmem = s.dmem := rfl
@[simp] theorem State.haltCore_clock : s.haltCore.clock = s.clock + 1 := rfl
@[simp] theorem State.haltCore_insnCompleted : s.haltCore.insnCompleted = s.insnCompleted := rfl
@[simp] theorem State.haltCore_status : s.haltCore.status = .halted := rfl
@[simp] theorem State.haltCore_f : s.haltCore.f = s.f := rfl
@[simp] theorem State.haltCore_fIsStalled : s.haltCore.fIsStalled = s.fIsStalled := rfl
@[simp] theorem State.haltCore_fHeld : s.haltCore.fHeld = s.fHeld := rfl
@[simp] theorem State.haltCore_d : s.haltCore.d = s.d := rfl
@[simp] theorem State.haltCore_dIsStalled : s.haltCore.dIsStalled = s.dIsStalled := rfl
@[simp] theorem State.haltCore_e : s.haltCore.e = s.e := rfl
@[simp] theorem State.haltCore_m : s.haltCore.m = s.m := rfl
@[simp] theorem State.haltCore_w : s.haltCore.w = s.w := rfl
@[simp] theorem State.haltCore_stage : s.haltCore.stage = s.stage := rfl

/-! ### loadAtPc (R110) -/

@[simp] theorem State.loadAtPc_cfg : s.loadAtPc.cfg = s.cfg := rfl
@[simp] theorem State.loadAtPc_istore : s.loadAtPc.istore = s.istore := rfl
@[simp] theorem State.loadAtPc_x : s.loadAtPc.x = s.x := rfl
@[simp] theorem State.loadAtPc_scoreboard : s.loadAtPc.scoreboard = s.scoreboard := rfl
@[simp] theorem State.loadAtPc_pc : s.loadAtPc.pc = s.pc := rfl
@[simp] theorem State.loadAtPc_z : s.loadAtPc.z = s.z := rfl
@[simp] theorem State.loadAtPc_redirect : s.loadAtPc.redirect = s.redirect := rfl
@[simp] theorem State.loadAtPc_dmem : s.loadAtPc.dmem = s.dmem := rfl
@[simp] theorem State.loadAtPc_clock : s.loadAtPc.clock = s.clock := rfl
@[simp] theorem State.loadAtPc_insnCompleted : s.loadAtPc.insnCompleted = s.insnCompleted := rfl
@[simp] theorem State.loadAtPc_status : s.loadAtPc.status = s.status := rfl
@[simp] theorem State.loadAtPc_f : s.loadAtPc.f = s.loadedLatch s.pc := rfl
@[simp] theorem State.loadAtPc_fIsStalled : s.loadAtPc.fIsStalled = s.fIsStalled := rfl
@[simp] theorem State.loadAtPc_fHeld : s.loadAtPc.fHeld = s.fHeld := rfl
@[simp] theorem State.loadAtPc_d : s.loadAtPc.d = s.d := rfl
@[simp] theorem State.loadAtPc_dIsStalled : s.loadAtPc.dIsStalled = s.dIsStalled := rfl
@[simp] theorem State.loadAtPc_e : s.loadAtPc.e = s.e := rfl
@[simp] theorem State.loadAtPc_m : s.loadAtPc.m = s.m := rfl
@[simp] theorem State.loadAtPc_w : s.loadAtPc.w = s.w := rfl
@[simp] theorem State.loadAtPc_stage : s.loadAtPc.stage = s.stage := rfl

/-! ### forward (R106) -/

@[simp] theorem State.forward_cfg : s.forward.cfg = s.cfg := rfl
@[simp] theorem State.forward_istore : s.forward.istore = s.istore := rfl
@[simp] theorem State.forward_x : s.forward.x = s.x := rfl
@[simp] theorem State.forward_scoreboard : s.forward.scoreboard = s.scoreboard := rfl
@[simp] theorem State.forward_pc : s.forward.pc = nextPc s.pc := rfl
@[simp] theorem State.forward_z : s.forward.z = s.z := rfl
@[simp] theorem State.forward_redirect : s.forward.redirect = s.redirect := rfl
@[simp] theorem State.forward_dmem : s.forward.dmem = s.dmem := rfl
@[simp] theorem State.forward_clock : s.forward.clock = s.clock := rfl
@[simp] theorem State.forward_insnCompleted : s.forward.insnCompleted = s.insnCompleted := rfl
@[simp] theorem State.forward_status : s.forward.status = s.status := rfl
@[simp] theorem State.forward_f : s.forward.f = s.f := rfl
@[simp] theorem State.forward_fIsStalled : s.forward.fIsStalled = s.fIsStalled := rfl
@[simp] theorem State.forward_fHeld : s.forward.fHeld = s.fHeld := rfl
@[simp] theorem State.forward_d : s.forward.d = s.f := rfl
@[simp] theorem State.forward_dIsStalled : s.forward.dIsStalled = s.fIsStalled := rfl
@[simp] theorem State.forward_e : s.forward.e = s.e := rfl
@[simp] theorem State.forward_m : s.forward.m = s.m := rfl
@[simp] theorem State.forward_w : s.forward.w = s.w := rfl
@[simp] theorem State.forward_stage : s.forward.stage = s.stage := rfl

/-! ### disableFetch (R107) -/

@[simp] theorem State.disableFetch_cfg : s.disableFetch.cfg = s.cfg := rfl
@[simp] theorem State.disableFetch_istore : s.disableFetch.istore = s.istore := rfl
@[simp] theorem State.disableFetch_x : s.disableFetch.x = s.x := rfl
@[simp] theorem State.disableFetch_scoreboard : s.disableFetch.scoreboard = s.scoreboard := rfl
@[simp] theorem State.disableFetch_pc : s.disableFetch.pc = s.pc := rfl
@[simp] theorem State.disableFetch_z : s.disableFetch.z = s.z := rfl
@[simp] theorem State.disableFetch_redirect : s.disableFetch.redirect = s.redirect := rfl
@[simp] theorem State.disableFetch_dmem : s.disableFetch.dmem = s.dmem := rfl
@[simp] theorem State.disableFetch_clock : s.disableFetch.clock = s.clock := rfl
@[simp] theorem State.disableFetch_insnCompleted : s.disableFetch.insnCompleted = s.insnCompleted := rfl
@[simp] theorem State.disableFetch_status : s.disableFetch.status = s.status := rfl
@[simp] theorem State.disableFetch_f : s.disableFetch.f = s.f.clear := rfl
@[simp] theorem State.disableFetch_fIsStalled : s.disableFetch.fIsStalled = s.fIsStalled := rfl
@[simp] theorem State.disableFetch_fHeld : s.disableFetch.fHeld = s.fHeld := rfl
@[simp] theorem State.disableFetch_d : s.disableFetch.d = s.d := rfl
@[simp] theorem State.disableFetch_dIsStalled : s.disableFetch.dIsStalled = s.dIsStalled := rfl
@[simp] theorem State.disableFetch_e : s.disableFetch.e = s.e := rfl
@[simp] theorem State.disableFetch_m : s.disableFetch.m = s.m := rfl
@[simp] theorem State.disableFetch_w : s.disableFetch.w = s.w := rfl
@[simp] theorem State.disableFetch_stage : s.disableFetch.stage = s.stage := rfl

/-! ### holdFetch (R105) -/

@[simp] theorem State.holdFetch_cfg : s.holdFetch.cfg = s.cfg := rfl
@[simp] theorem State.holdFetch_istore : s.holdFetch.istore = s.istore := rfl
@[simp] theorem State.holdFetch_x : s.holdFetch.x = s.x := rfl
@[simp] theorem State.holdFetch_scoreboard : s.holdFetch.scoreboard = s.scoreboard := rfl
@[simp] theorem State.holdFetch_pc : s.holdFetch.pc = s.pc := rfl
@[simp] theorem State.holdFetch_z : s.holdFetch.z = s.z := rfl
@[simp] theorem State.holdFetch_redirect : s.holdFetch.redirect = s.redirect := rfl
@[simp] theorem State.holdFetch_dmem : s.holdFetch.dmem = s.dmem := rfl
@[simp] theorem State.holdFetch_clock : s.holdFetch.clock = s.clock := rfl
@[simp] theorem State.holdFetch_insnCompleted : s.holdFetch.insnCompleted = s.insnCompleted := rfl
@[simp] theorem State.holdFetch_status : s.holdFetch.status = s.status := rfl
@[simp] theorem State.holdFetch_f : s.holdFetch.f = (s.loadedLatch s.pc).clear := rfl
@[simp] theorem State.holdFetch_fIsStalled : s.holdFetch.fIsStalled = s.fIsStalled := rfl
@[simp] theorem State.holdFetch_fHeld : s.holdFetch.fHeld = true := rfl
@[simp] theorem State.holdFetch_d : s.holdFetch.d = s.d := rfl
@[simp] theorem State.holdFetch_dIsStalled : s.holdFetch.dIsStalled = s.dIsStalled := rfl
@[simp] theorem State.holdFetch_e : s.holdFetch.e = s.e := rfl
@[simp] theorem State.holdFetch_m : s.holdFetch.m = s.m := rfl
@[simp] theorem State.holdFetch_w : s.holdFetch.w = s.w := rfl
@[simp] theorem State.holdFetch_stage : s.holdFetch.stage = s.stage := rfl

/-! ### resumeFetch (R108) -/

@[simp] theorem State.resumeFetch_cfg : s.resumeFetch.cfg = s.cfg := rfl
@[simp] theorem State.resumeFetch_istore : s.resumeFetch.istore = s.istore := rfl
@[simp] theorem State.resumeFetch_x : s.resumeFetch.x = s.x := rfl
@[simp] theorem State.resumeFetch_scoreboard : s.resumeFetch.scoreboard = s.scoreboard := rfl
@[simp] theorem State.resumeFetch_pc : s.resumeFetch.pc = s.pc := rfl
@[simp] theorem State.resumeFetch_z : s.resumeFetch.z = s.z := rfl
@[simp] theorem State.resumeFetch_redirect : s.resumeFetch.redirect = s.redirect := rfl
@[simp] theorem State.resumeFetch_dmem : s.resumeFetch.dmem = s.dmem := rfl
@[simp] theorem State.resumeFetch_clock : s.resumeFetch.clock = s.clock := rfl
@[simp] theorem State.resumeFetch_insnCompleted : s.resumeFetch.insnCompleted = s.insnCompleted := rfl
@[simp] theorem State.resumeFetch_status : s.resumeFetch.status = s.status := rfl
@[simp] theorem State.resumeFetch_f : s.resumeFetch.f = { s.f with hasInstruction := true } := rfl
@[simp] theorem State.resumeFetch_fIsStalled : s.resumeFetch.fIsStalled = s.fIsStalled := rfl
@[simp] theorem State.resumeFetch_fHeld : s.resumeFetch.fHeld = false := rfl
@[simp] theorem State.resumeFetch_d : s.resumeFetch.d = s.d := rfl
@[simp] theorem State.resumeFetch_dIsStalled : s.resumeFetch.dIsStalled = s.dIsStalled := rfl
@[simp] theorem State.resumeFetch_e : s.resumeFetch.e = s.e := rfl
@[simp] theorem State.resumeFetch_m : s.resumeFetch.m = s.m := rfl
@[simp] theorem State.resumeFetch_w : s.resumeFetch.w = s.w := rfl
@[simp] theorem State.resumeFetch_stage : s.resumeFetch.stage = s.stage := rfl

/-! ### stall (R113) -/

@[simp] theorem State.stall_cfg : s.stall.cfg = s.cfg := rfl
@[simp] theorem State.stall_istore : s.stall.istore = s.istore := rfl
@[simp] theorem State.stall_x : s.stall.x = s.x := rfl
@[simp] theorem State.stall_scoreboard : s.stall.scoreboard = s.scoreboard := rfl
@[simp] theorem State.stall_pc : s.stall.pc = s.pc := rfl
@[simp] theorem State.stall_z : s.stall.z = s.z := rfl
@[simp] theorem State.stall_redirect : s.stall.redirect = s.redirect := rfl
@[simp] theorem State.stall_dmem : s.stall.dmem = s.dmem := rfl
@[simp] theorem State.stall_clock : s.stall.clock = s.clock := rfl
@[simp] theorem State.stall_insnCompleted : s.stall.insnCompleted = s.insnCompleted := rfl
@[simp] theorem State.stall_status : s.stall.status = s.status := rfl
@[simp] theorem State.stall_f : s.stall.f = s.f := rfl
@[simp] theorem State.stall_fIsStalled : s.stall.fIsStalled = true := rfl
@[simp] theorem State.stall_fHeld : s.stall.fHeld = s.fHeld := rfl
@[simp] theorem State.stall_d : s.stall.d = s.d := rfl
@[simp] theorem State.stall_dIsStalled : s.stall.dIsStalled = true := rfl
@[simp] theorem State.stall_e : s.stall.e = s.e := rfl
@[simp] theorem State.stall_m : s.stall.m = s.m := rfl
@[simp] theorem State.stall_w : s.stall.w = s.w := rfl
@[simp] theorem State.stall_stage : s.stall.stage = s.stage := rfl

/-! ### advanceDecode (R114) -/

@[simp] theorem State.advanceDecode_cfg : s.advanceDecode.cfg = s.cfg := rfl
@[simp] theorem State.advanceDecode_istore : s.advanceDecode.istore = s.istore := rfl
@[simp] theorem State.advanceDecode_x : s.advanceDecode.x = s.x := rfl
@[simp] theorem State.advanceDecode_scoreboard : s.advanceDecode.scoreboard = s.scoreboard := rfl
@[simp] theorem State.advanceDecode_pc : s.advanceDecode.pc = s.pc := rfl
@[simp] theorem State.advanceDecode_z : s.advanceDecode.z = s.z := rfl
@[simp] theorem State.advanceDecode_redirect : s.advanceDecode.redirect = s.redirect := rfl
@[simp] theorem State.advanceDecode_dmem : s.advanceDecode.dmem = s.dmem := rfl
@[simp] theorem State.advanceDecode_clock : s.advanceDecode.clock = s.clock := rfl
@[simp] theorem State.advanceDecode_insnCompleted : s.advanceDecode.insnCompleted = s.insnCompleted := rfl
@[simp] theorem State.advanceDecode_status : s.advanceDecode.status = s.status := rfl
@[simp] theorem State.advanceDecode_f : s.advanceDecode.f = s.f := rfl
@[simp] theorem State.advanceDecode_fIsStalled : s.advanceDecode.fIsStalled = false := rfl
@[simp] theorem State.advanceDecode_fHeld : s.advanceDecode.fHeld = s.fHeld := rfl
@[simp] theorem State.advanceDecode_d : s.advanceDecode.d = s.d.clear := rfl
@[simp] theorem State.advanceDecode_dIsStalled : s.advanceDecode.dIsStalled = false := rfl
@[simp] theorem State.advanceDecode_e : s.advanceDecode.e = s.d := rfl
@[simp] theorem State.advanceDecode_m : s.advanceDecode.m = s.m := rfl
@[simp] theorem State.advanceDecode_w : s.advanceDecode.w = s.w := rfl
@[simp] theorem State.advanceDecode_stage : s.advanceDecode.stage = s.stage := rfl

/-! ### passExecute (R116) -/

@[simp] theorem State.passExecute_cfg : s.passExecute.cfg = s.cfg := rfl
@[simp] theorem State.passExecute_istore : s.passExecute.istore = s.istore := rfl
@[simp] theorem State.passExecute_x : s.passExecute.x = s.x := rfl
@[simp] theorem State.passExecute_scoreboard : s.passExecute.scoreboard = s.scoreboard := rfl
@[simp] theorem State.passExecute_pc : s.passExecute.pc = s.pc := rfl
@[simp] theorem State.passExecute_z : s.passExecute.z = s.z := rfl
@[simp] theorem State.passExecute_redirect : s.passExecute.redirect = s.redirect := rfl
@[simp] theorem State.passExecute_dmem : s.passExecute.dmem = s.dmem := rfl
@[simp] theorem State.passExecute_clock : s.passExecute.clock = s.clock := rfl
@[simp] theorem State.passExecute_insnCompleted : s.passExecute.insnCompleted = s.insnCompleted := rfl
@[simp] theorem State.passExecute_status : s.passExecute.status = s.status := rfl
@[simp] theorem State.passExecute_f : s.passExecute.f = s.f := rfl
@[simp] theorem State.passExecute_fIsStalled : s.passExecute.fIsStalled = s.fIsStalled := rfl
@[simp] theorem State.passExecute_fHeld : s.passExecute.fHeld = s.fHeld := rfl
@[simp] theorem State.passExecute_d : s.passExecute.d = s.d := rfl
@[simp] theorem State.passExecute_dIsStalled : s.passExecute.dIsStalled = s.dIsStalled := rfl
@[simp] theorem State.passExecute_e : s.passExecute.e = s.e.clear := rfl
@[simp] theorem State.passExecute_m : s.passExecute.m = s.e := rfl
@[simp] theorem State.passExecute_w : s.passExecute.w = s.w := rfl
@[simp] theorem State.passExecute_stage : s.passExecute.stage = s.stage := rfl

/-! ### setResult (R116) -/

@[simp] theorem State.setResult_cfg (v : Word) : (s.setResult v).cfg = s.cfg := rfl
@[simp] theorem State.setResult_istore (v : Word) : (s.setResult v).istore = s.istore := rfl
@[simp] theorem State.setResult_x (v : Word) : (s.setResult v).x = s.x := rfl
@[simp] theorem State.setResult_scoreboard (v : Word) : (s.setResult v).scoreboard = s.scoreboard := rfl
@[simp] theorem State.setResult_pc (v : Word) : (s.setResult v).pc = s.pc := rfl
@[simp] theorem State.setResult_z (v : Word) : (s.setResult v).z = s.z := rfl
@[simp] theorem State.setResult_redirect (v : Word) : (s.setResult v).redirect = s.redirect := rfl
@[simp] theorem State.setResult_dmem (v : Word) : (s.setResult v).dmem = s.dmem := rfl
@[simp] theorem State.setResult_clock (v : Word) : (s.setResult v).clock = s.clock := rfl
@[simp] theorem State.setResult_insnCompleted (v : Word) : (s.setResult v).insnCompleted = s.insnCompleted := rfl
@[simp] theorem State.setResult_status (v : Word) : (s.setResult v).status = s.status := rfl
@[simp] theorem State.setResult_f (v : Word) : (s.setResult v).f = s.f := rfl
@[simp] theorem State.setResult_fIsStalled (v : Word) : (s.setResult v).fIsStalled = s.fIsStalled := rfl
@[simp] theorem State.setResult_fHeld (v : Word) : (s.setResult v).fHeld = s.fHeld := rfl
@[simp] theorem State.setResult_d (v : Word) : (s.setResult v).d = s.d := rfl
@[simp] theorem State.setResult_dIsStalled (v : Word) : (s.setResult v).dIsStalled = s.dIsStalled := rfl
@[simp] theorem State.setResult_e (v : Word) : (s.setResult v).e = { s.e with resultValue := v } := rfl
@[simp] theorem State.setResult_m (v : Word) : (s.setResult v).m = s.m := rfl
@[simp] theorem State.setResult_w (v : Word) : (s.setResult v).w = s.w := rfl
@[simp] theorem State.setResult_stage (v : Word) : (s.setResult v).stage = s.stage := rfl

/-! ### setAddress (R116) -/

@[simp] theorem State.setAddress_cfg (a : Word) : (s.setAddress a).cfg = s.cfg := rfl
@[simp] theorem State.setAddress_istore (a : Word) : (s.setAddress a).istore = s.istore := rfl
@[simp] theorem State.setAddress_x (a : Word) : (s.setAddress a).x = s.x := rfl
@[simp] theorem State.setAddress_scoreboard (a : Word) : (s.setAddress a).scoreboard = s.scoreboard := rfl
@[simp] theorem State.setAddress_pc (a : Word) : (s.setAddress a).pc = s.pc := rfl
@[simp] theorem State.setAddress_z (a : Word) : (s.setAddress a).z = s.z := rfl
@[simp] theorem State.setAddress_redirect (a : Word) : (s.setAddress a).redirect = s.redirect := rfl
@[simp] theorem State.setAddress_dmem (a : Word) : (s.setAddress a).dmem = s.dmem := rfl
@[simp] theorem State.setAddress_clock (a : Word) : (s.setAddress a).clock = s.clock := rfl
@[simp] theorem State.setAddress_insnCompleted (a : Word) : (s.setAddress a).insnCompleted = s.insnCompleted := rfl
@[simp] theorem State.setAddress_status (a : Word) : (s.setAddress a).status = s.status := rfl
@[simp] theorem State.setAddress_f (a : Word) : (s.setAddress a).f = s.f := rfl
@[simp] theorem State.setAddress_fIsStalled (a : Word) : (s.setAddress a).fIsStalled = s.fIsStalled := rfl
@[simp] theorem State.setAddress_fHeld (a : Word) : (s.setAddress a).fHeld = s.fHeld := rfl
@[simp] theorem State.setAddress_d (a : Word) : (s.setAddress a).d = s.d := rfl
@[simp] theorem State.setAddress_dIsStalled (a : Word) : (s.setAddress a).dIsStalled = s.dIsStalled := rfl
@[simp] theorem State.setAddress_e (a : Word) : (s.setAddress a).e = { s.e with memoryAddress := a } := rfl
@[simp] theorem State.setAddress_m (a : Word) : (s.setAddress a).m = s.m := rfl
@[simp] theorem State.setAddress_w (a : Word) : (s.setAddress a).w = s.w := rfl
@[simp] theorem State.setAddress_stage (a : Word) : (s.setAddress a).stage = s.stage := rfl

/-! ### setZ (R117) -/

@[simp] theorem State.setZ_cfg (b : Bool) : (s.setZ b).cfg = s.cfg := rfl
@[simp] theorem State.setZ_istore (b : Bool) : (s.setZ b).istore = s.istore := rfl
@[simp] theorem State.setZ_x (b : Bool) : (s.setZ b).x = s.x := rfl
@[simp] theorem State.setZ_scoreboard (b : Bool) : (s.setZ b).scoreboard = s.scoreboard := rfl
@[simp] theorem State.setZ_pc (b : Bool) : (s.setZ b).pc = s.pc := rfl
@[simp] theorem State.setZ_z (b : Bool) : (s.setZ b).z = b := rfl
@[simp] theorem State.setZ_redirect (b : Bool) : (s.setZ b).redirect = s.redirect := rfl
@[simp] theorem State.setZ_dmem (b : Bool) : (s.setZ b).dmem = s.dmem := rfl
@[simp] theorem State.setZ_clock (b : Bool) : (s.setZ b).clock = s.clock := rfl
@[simp] theorem State.setZ_insnCompleted (b : Bool) : (s.setZ b).insnCompleted = s.insnCompleted := rfl
@[simp] theorem State.setZ_status (b : Bool) : (s.setZ b).status = s.status := rfl
@[simp] theorem State.setZ_f (b : Bool) : (s.setZ b).f = s.f := rfl
@[simp] theorem State.setZ_fIsStalled (b : Bool) : (s.setZ b).fIsStalled = s.fIsStalled := rfl
@[simp] theorem State.setZ_fHeld (b : Bool) : (s.setZ b).fHeld = s.fHeld := rfl
@[simp] theorem State.setZ_d (b : Bool) : (s.setZ b).d = s.d := rfl
@[simp] theorem State.setZ_dIsStalled (b : Bool) : (s.setZ b).dIsStalled = s.dIsStalled := rfl
@[simp] theorem State.setZ_e (b : Bool) : (s.setZ b).e = s.e := rfl
@[simp] theorem State.setZ_m (b : Bool) : (s.setZ b).m = s.m := rfl
@[simp] theorem State.setZ_w (b : Bool) : (s.setZ b).w = s.w := rfl
@[simp] theorem State.setZ_stage (b : Bool) : (s.setZ b).stage = s.stage := rfl

/-! ### takeBranch (R118) -/

@[simp] theorem State.takeBranch_cfg (t : Word) : (s.takeBranch t).cfg = s.cfg := rfl
@[simp] theorem State.takeBranch_istore (t : Word) : (s.takeBranch t).istore = s.istore := rfl
@[simp] theorem State.takeBranch_x (t : Word) : (s.takeBranch t).x = s.x := rfl
@[simp] theorem State.takeBranch_scoreboard (t : Word) : (s.takeBranch t).scoreboard = s.scoreboard := rfl
@[simp] theorem State.takeBranch_pc (t : Word) : (s.takeBranch t).pc = t := rfl
@[simp] theorem State.takeBranch_z (t : Word) : (s.takeBranch t).z = s.z := rfl
@[simp] theorem State.takeBranch_redirect (t : Word) : (s.takeBranch t).redirect = true := rfl
@[simp] theorem State.takeBranch_dmem (t : Word) : (s.takeBranch t).dmem = s.dmem := rfl
@[simp] theorem State.takeBranch_clock (t : Word) : (s.takeBranch t).clock = s.clock := rfl
@[simp] theorem State.takeBranch_insnCompleted (t : Word) : (s.takeBranch t).insnCompleted = s.insnCompleted := rfl
@[simp] theorem State.takeBranch_status (t : Word) : (s.takeBranch t).status = s.status := rfl
@[simp] theorem State.takeBranch_f (t : Word) : (s.takeBranch t).f = { s.f with hasInstruction := true } := rfl
@[simp] theorem State.takeBranch_fIsStalled (t : Word) : (s.takeBranch t).fIsStalled = s.fIsStalled := rfl
@[simp] theorem State.takeBranch_fHeld (t : Word) : (s.takeBranch t).fHeld = s.fHeld := rfl
@[simp] theorem State.takeBranch_d (t : Word) : (s.takeBranch t).d = s.d.clear := rfl
@[simp] theorem State.takeBranch_dIsStalled (t : Word) : (s.takeBranch t).dIsStalled = s.dIsStalled := rfl
@[simp] theorem State.takeBranch_e (t : Word) : (s.takeBranch t).e = s.e := rfl
@[simp] theorem State.takeBranch_m (t : Word) : (s.takeBranch t).m = s.m := rfl
@[simp] theorem State.takeBranch_w (t : Word) : (s.takeBranch t).w = s.w := rfl
@[simp] theorem State.takeBranch_stage (t : Word) : (s.takeBranch t).stage = s.stage := rfl

/-! ### passMemory (R119) -/

@[simp] theorem State.passMemory_cfg : s.passMemory.cfg = s.cfg := rfl
@[simp] theorem State.passMemory_istore : s.passMemory.istore = s.istore := rfl
@[simp] theorem State.passMemory_x : s.passMemory.x = s.x := rfl
@[simp] theorem State.passMemory_scoreboard : s.passMemory.scoreboard = s.scoreboard := rfl
@[simp] theorem State.passMemory_pc : s.passMemory.pc = s.pc := rfl
@[simp] theorem State.passMemory_z : s.passMemory.z = s.z := rfl
@[simp] theorem State.passMemory_redirect : s.passMemory.redirect = s.redirect := rfl
@[simp] theorem State.passMemory_dmem : s.passMemory.dmem = s.dmem := rfl
@[simp] theorem State.passMemory_clock : s.passMemory.clock = s.clock := rfl
@[simp] theorem State.passMemory_insnCompleted : s.passMemory.insnCompleted = s.insnCompleted := rfl
@[simp] theorem State.passMemory_status : s.passMemory.status = s.status := rfl
@[simp] theorem State.passMemory_f : s.passMemory.f = s.f := rfl
@[simp] theorem State.passMemory_fIsStalled : s.passMemory.fIsStalled = s.fIsStalled := rfl
@[simp] theorem State.passMemory_fHeld : s.passMemory.fHeld = s.fHeld := rfl
@[simp] theorem State.passMemory_d : s.passMemory.d = s.d := rfl
@[simp] theorem State.passMemory_dIsStalled : s.passMemory.dIsStalled = s.dIsStalled := rfl
@[simp] theorem State.passMemory_e : s.passMemory.e = s.e := rfl
@[simp] theorem State.passMemory_m : s.passMemory.m = s.m.clear := rfl
@[simp] theorem State.passMemory_w : s.passMemory.w = s.m := rfl
@[simp] theorem State.passMemory_stage : s.passMemory.stage = s.stage := rfl

/-! ### writeDest (R120) -/

@[simp] theorem State.writeDest_cfg (r : Reg) : (s.writeDest r).cfg = s.cfg := rfl
@[simp] theorem State.writeDest_istore (r : Reg) : (s.writeDest r).istore = s.istore := rfl
@[simp] theorem State.writeDest_x (r : Reg) : (s.writeDest r).x = s.x.set r s.w.resultValue := rfl
@[simp] theorem State.writeDest_scoreboard (r : Reg) : (s.writeDest r).scoreboard = s.scoreboard.restore r := rfl
@[simp] theorem State.writeDest_pc (r : Reg) : (s.writeDest r).pc = s.pc := rfl
@[simp] theorem State.writeDest_z (r : Reg) : (s.writeDest r).z = s.z := rfl
@[simp] theorem State.writeDest_redirect (r : Reg) : (s.writeDest r).redirect = s.redirect := rfl
@[simp] theorem State.writeDest_dmem (r : Reg) : (s.writeDest r).dmem = s.dmem := rfl
@[simp] theorem State.writeDest_clock (r : Reg) : (s.writeDest r).clock = s.clock := rfl
@[simp] theorem State.writeDest_insnCompleted (r : Reg) : (s.writeDest r).insnCompleted = s.insnCompleted := rfl
@[simp] theorem State.writeDest_status (r : Reg) : (s.writeDest r).status = s.status := rfl
@[simp] theorem State.writeDest_f (r : Reg) : (s.writeDest r).f = s.f := rfl
@[simp] theorem State.writeDest_fIsStalled (r : Reg) : (s.writeDest r).fIsStalled = s.fIsStalled := rfl
@[simp] theorem State.writeDest_fHeld (r : Reg) : (s.writeDest r).fHeld = s.fHeld := rfl
@[simp] theorem State.writeDest_d (r : Reg) : (s.writeDest r).d = s.d := rfl
@[simp] theorem State.writeDest_dIsStalled (r : Reg) : (s.writeDest r).dIsStalled = s.dIsStalled := rfl
@[simp] theorem State.writeDest_e (r : Reg) : (s.writeDest r).e = s.e := rfl
@[simp] theorem State.writeDest_m (r : Reg) : (s.writeDest r).m = s.m := rfl
@[simp] theorem State.writeDest_w (r : Reg) : (s.writeDest r).w = s.w := rfl
@[simp] theorem State.writeDest_stage (r : Reg) : (s.writeDest r).stage = s.stage := rfl

/-! ### retire (R121) -/

@[simp] theorem State.retire_cfg : s.retire.cfg = s.cfg := rfl
@[simp] theorem State.retire_istore : s.retire.istore = s.istore := rfl
@[simp] theorem State.retire_x : s.retire.x = s.x := rfl
@[simp] theorem State.retire_scoreboard : s.retire.scoreboard = s.scoreboard := rfl
@[simp] theorem State.retire_pc : s.retire.pc = s.pc := rfl
@[simp] theorem State.retire_z : s.retire.z = s.z := rfl
@[simp] theorem State.retire_redirect : s.retire.redirect = s.redirect := rfl
@[simp] theorem State.retire_dmem : s.retire.dmem = s.dmem := rfl
@[simp] theorem State.retire_clock : s.retire.clock = s.clock := rfl
@[simp] theorem State.retire_insnCompleted : s.retire.insnCompleted = s.insnCompleted + 1 := rfl
@[simp] theorem State.retire_status : s.retire.status = s.status := rfl
@[simp] theorem State.retire_f : s.retire.f = s.f := rfl
@[simp] theorem State.retire_fIsStalled : s.retire.fIsStalled = s.fIsStalled := rfl
@[simp] theorem State.retire_fHeld : s.retire.fHeld = s.fHeld := rfl
@[simp] theorem State.retire_d : s.retire.d = s.d := rfl
@[simp] theorem State.retire_dIsStalled : s.retire.dIsStalled = s.dIsStalled := rfl
@[simp] theorem State.retire_e : s.retire.e = s.e := rfl
@[simp] theorem State.retire_m : s.retire.m = s.m := rfl
@[simp] theorem State.retire_w : s.retire.w = s.w.clear := rfl
@[simp] theorem State.retire_stage : s.retire.stage = s.stage := rfl

/-! ### readSources (R114 (1)) -/

@[simp] theorem State.readSources_cfg (a b : Option Reg) :
    (s.readSources a b).cfg = s.cfg := rfl
@[simp] theorem State.readSources_istore (a b : Option Reg) :
    (s.readSources a b).istore = s.istore := rfl
@[simp] theorem State.readSources_x (a b : Option Reg) :
    (s.readSources a b).x = s.x := rfl
@[simp] theorem State.readSources_scoreboard (a b : Option Reg) :
    (s.readSources a b).scoreboard = s.scoreboard := rfl
@[simp] theorem State.readSources_pc (a b : Option Reg) :
    (s.readSources a b).pc = s.pc := rfl
@[simp] theorem State.readSources_z (a b : Option Reg) :
    (s.readSources a b).z = s.z := rfl
@[simp] theorem State.readSources_redirect (a b : Option Reg) :
    (s.readSources a b).redirect = s.redirect := rfl
@[simp] theorem State.readSources_dmem (a b : Option Reg) :
    (s.readSources a b).dmem = s.dmem := rfl
@[simp] theorem State.readSources_clock (a b : Option Reg) :
    (s.readSources a b).clock = s.clock := rfl
@[simp] theorem State.readSources_insnCompleted (a b : Option Reg) :
    (s.readSources a b).insnCompleted = s.insnCompleted := rfl
@[simp] theorem State.readSources_status (a b : Option Reg) :
    (s.readSources a b).status = s.status := rfl
@[simp] theorem State.readSources_f (a b : Option Reg) :
    (s.readSources a b).f = s.f := rfl
@[simp] theorem State.readSources_fIsStalled (a b : Option Reg) :
    (s.readSources a b).fIsStalled = s.fIsStalled := rfl
@[simp] theorem State.readSources_fHeld (a b : Option Reg) :
    (s.readSources a b).fHeld = s.fHeld := rfl
@[simp] theorem State.readSources_dIsStalled (a b : Option Reg) :
    (s.readSources a b).dIsStalled = s.dIsStalled := rfl
@[simp] theorem State.readSources_e (a b : Option Reg) :
    (s.readSources a b).e = s.e := rfl
@[simp] theorem State.readSources_m (a b : Option Reg) :
    (s.readSources a b).m = s.m := rfl
@[simp] theorem State.readSources_w (a b : Option Reg) :
    (s.readSources a b).w = s.w := rfl
@[simp] theorem State.readSources_stage (a b : Option Reg) :
    (s.readSources a b).stage = s.stage := rfl

@[simp] theorem State.readSources_sourceValue1 (a b : Option Reg) :
    (s.readSources a b).d.sourceValue1 = a.elim s.d.sourceValue1 s.reg := rfl
@[simp] theorem State.readSources_sourceValue2 (a b : Option Reg) :
    (s.readSources a b).d.sourceValue2 = b.elim s.d.sourceValue2 s.reg := rfl
@[simp] theorem State.readSources_d_hasInstruction (a b : Option Reg) :
    (s.readSources a b).d.hasInstruction = s.d.hasInstruction := rfl
@[simp] theorem State.readSources_d_pc (a b : Option Reg) :
    (s.readSources a b).d.pc = s.d.pc := rfl
@[simp] theorem State.readSources_d_opcode (a b : Option Reg) :
    (s.readSources a b).d.opcode = s.d.opcode := rfl
@[simp] theorem State.readSources_d_rd (a b : Option Reg) :
    (s.readSources a b).d.rd = s.d.rd := rfl
@[simp] theorem State.readSources_d_rs1 (a b : Option Reg) :
    (s.readSources a b).d.rs1 = s.d.rs1 := rfl
@[simp] theorem State.readSources_d_rs2 (a b : Option Reg) :
    (s.readSources a b).d.rs2 = s.d.rs2 := rfl
@[simp] theorem State.readSources_d_imm (a b : Option Reg) :
    (s.readSources a b).d.imm = s.d.imm := rfl
@[simp] theorem State.readSources_d_mnemonic (a b : Option Reg) :
    (s.readSources a b).d.mnemonic = s.d.mnemonic := rfl
@[simp] theorem State.readSources_d_resultValue (a b : Option Reg) :
    (s.readSources a b).d.resultValue = s.d.resultValue := rfl
@[simp] theorem State.readSources_d_memoryAddress (a b : Option Reg) :
    (s.readSources a b).d.memoryAddress = s.d.memoryAddress := rfl

/-! ### invalidateDest (R114 (2)) -/

@[simp] theorem State.invalidateDest_cfg (d : Option Reg) :
    (s.invalidateDest d).cfg = s.cfg := by cases d <;> rfl
@[simp] theorem State.invalidateDest_istore (d : Option Reg) :
    (s.invalidateDest d).istore = s.istore := by cases d <;> rfl
@[simp] theorem State.invalidateDest_x (d : Option Reg) :
    (s.invalidateDest d).x = s.x := by cases d <;> rfl
@[simp] theorem State.invalidateDest_pc (d : Option Reg) :
    (s.invalidateDest d).pc = s.pc := by cases d <;> rfl
@[simp] theorem State.invalidateDest_z (d : Option Reg) :
    (s.invalidateDest d).z = s.z := by cases d <;> rfl
@[simp] theorem State.invalidateDest_redirect (d : Option Reg) :
    (s.invalidateDest d).redirect = s.redirect := by cases d <;> rfl
@[simp] theorem State.invalidateDest_dmem (d : Option Reg) :
    (s.invalidateDest d).dmem = s.dmem := by cases d <;> rfl
@[simp] theorem State.invalidateDest_clock (d : Option Reg) :
    (s.invalidateDest d).clock = s.clock := by cases d <;> rfl
@[simp] theorem State.invalidateDest_insnCompleted (d : Option Reg) :
    (s.invalidateDest d).insnCompleted = s.insnCompleted := by cases d <;> rfl
@[simp] theorem State.invalidateDest_status (d : Option Reg) :
    (s.invalidateDest d).status = s.status := by cases d <;> rfl
@[simp] theorem State.invalidateDest_f (d : Option Reg) :
    (s.invalidateDest d).f = s.f := by cases d <;> rfl
@[simp] theorem State.invalidateDest_fIsStalled (d : Option Reg) :
    (s.invalidateDest d).fIsStalled = s.fIsStalled := by cases d <;> rfl
@[simp] theorem State.invalidateDest_fHeld (d : Option Reg) :
    (s.invalidateDest d).fHeld = s.fHeld := by cases d <;> rfl
@[simp] theorem State.invalidateDest_d (d : Option Reg) :
    (s.invalidateDest d).d = s.d := by cases d <;> rfl
@[simp] theorem State.invalidateDest_dIsStalled (d : Option Reg) :
    (s.invalidateDest d).dIsStalled = s.dIsStalled := by cases d <;> rfl
@[simp] theorem State.invalidateDest_e (d : Option Reg) :
    (s.invalidateDest d).e = s.e := by cases d <;> rfl
@[simp] theorem State.invalidateDest_m (d : Option Reg) :
    (s.invalidateDest d).m = s.m := by cases d <;> rfl
@[simp] theorem State.invalidateDest_w (d : Option Reg) :
    (s.invalidateDest d).w = s.w := by cases d <;> rfl
@[simp] theorem State.invalidateDest_stage (d : Option Reg) :
    (s.invalidateDest d).stage = s.stage := by cases d <;> rfl
@[simp] theorem State.invalidateDest_none : s.invalidateDest none = s := rfl
@[simp] theorem State.invalidateDest_some_scoreboard (r : Reg) :
    (s.invalidateDest (some r)).scoreboard = s.scoreboard.invalidate r := rfl

/-! ### Latches -/

@[simp] theorem Latch.clear_hasInstruction : l.clear.hasInstruction = false := rfl
@[simp] theorem Latch.clear_pc : l.clear.pc = l.pc := rfl
@[simp] theorem Latch.clear_opcode : l.clear.opcode = l.opcode := rfl
@[simp] theorem Latch.clear_rd : l.clear.rd = l.rd := rfl
@[simp] theorem Latch.clear_rs1 : l.clear.rs1 = l.rs1 := rfl
@[simp] theorem Latch.clear_rs2 : l.clear.rs2 = l.rs2 := rfl
@[simp] theorem Latch.clear_imm : l.clear.imm = l.imm := rfl
@[simp] theorem Latch.clear_mnemonic : l.clear.mnemonic = l.mnemonic := rfl
@[simp] theorem Latch.clear_sourceValue1 : l.clear.sourceValue1 = l.sourceValue1 := rfl
@[simp] theorem Latch.clear_sourceValue2 : l.clear.sourceValue2 = l.sourceValue2 := rfl
@[simp] theorem Latch.clear_resultValue : l.clear.resultValue = l.resultValue := rfl
@[simp] theorem Latch.clear_memoryAddress : l.clear.memoryAddress = l.memoryAddress := rfl
@[simp] theorem Latch.clear_instr : l.clear.instr = l.instr := rfl
@[simp] theorem Latch.clear_poison : l.clear.poison = l.poison := rfl
@[simp] theorem Latch.instr_of_known (o : Opcode) (h : l.opcode = .known o) :
    l.instr = some (l.recordOf o).instr := by simp [Latch.instr, h]
@[simp] theorem Latch.instr_of_invalid (p : Poison) (h : l.opcode = .invalid p) :
    l.instr = none := by simp [Latch.instr, h]
/-! The instruction and the poison of a latch rest on neither its control bit nor its values. -/

@[simp] theorem Latch.instr_of_hasInstruction (b : Bool) :
    ({ l with hasInstruction := b } : Latch).instr = l.instr := rfl
@[simp] theorem Latch.poison_of_hasInstruction (b : Bool) :
    ({ l with hasInstruction := b } : Latch).poison = l.poison := rfl
@[simp] theorem Latch.instr_of_values (a b c d : Word) :
    ({ l with sourceValue1 := a, sourceValue2 := b, resultValue := c, memoryAddress := d } :
      Latch).instr = l.instr := rfl
@[simp] theorem Latch.poison_of_values (a b c d : Word) :
    ({ l with sourceValue1 := a, sourceValue2 := b, resultValue := c, memoryAddress := d } :
      Latch).poison = l.poison := rfl
@[simp] theorem Latch.instr_of_result (v : Word) :
    ({ l with resultValue := v } : Latch).instr = l.instr := rfl
@[simp] theorem Latch.poison_of_result (v : Word) :
    ({ l with resultValue := v } : Latch).poison = l.poison := rfl
@[simp] theorem Latch.instr_of_result_address (v a : Word) :
    ({ l with resultValue := v, memoryAddress := a } : Latch).instr = l.instr := rfl
@[simp] theorem Latch.poison_of_result_address (v a : Word) :
    ({ l with resultValue := v, memoryAddress := a } : Latch).poison = l.poison := rfl
@[simp] theorem State.readSources_d_instr (a b : Option Reg) :
    (s.readSources a b).d.instr = s.d.instr := rfl
@[simp] theorem State.readSources_d_poison (a b : Option Reg) :
    (s.readSources a b).d.poison = s.d.poison := rfl
@[simp] theorem State.resumeFetch_f_instr : s.resumeFetch.f.instr = s.f.instr := rfl
theorem Latch.poison_of_instr {i : Instr} (h : l.instr = some i) : l.poison = none := by
  unfold Latch.instr at h
  unfold Latch.poison
  cases ho : l.opcode <;> simp_all
theorem Latch.instr_eq_none_iff : l.instr = none ↔ l.poison ≠ none := by
  unfold Latch.instr Latch.poison
  cases l.opcode <;> simp

/-! ### Registers -/

@[simp] theorem State.setReg_reg_self (r : Reg) (v : Word) : (s.setReg r v).reg r = v := by
  simp [State.reg]
theorem State.setReg_reg_other (r q : Reg) (v : Word) (h : r ≠ q) :
    (s.setReg r v).reg q = s.reg q := by
  simp [State.reg, Fin.val_inj, h]
@[simp] theorem State.writeDest_reg_self (r : Reg) : (s.writeDest r).reg r = s.w.resultValue := by
  simp [State.reg]
theorem State.writeDest_reg_other (r q : Reg) (h : r ≠ q) :
    (s.writeDest r).reg q = s.reg q := by
  simp [State.reg, Fin.val_inj, h]

end Fields

end Sys2Proof.Machine
end

