-- ==== Sys2Proof/Laws/Ops.lean ====
section
/-!
SUPPORT. One lemma per shared operation that says once everything it can do, for later proofs to
cite instead of unfolding it.
-/

namespace Sys2Proof.Machine

/-! ### The scoreboard (R123) -/

@[simp] theorem Scoreboard.invalidate_kind (b : Scoreboard) (r : Reg) :
    (b.invalidate r).kind = b.kind := by cases b <;> rfl

@[simp] theorem Scoreboard.restore_kind (b : Scoreboard) (r : Reg) :
    (b.restore r).kind = b.kind := by cases b <;> rfl

@[simp] theorem Scoreboard.reset_kind (k : ScoreboardKind) : (Scoreboard.reset k).kind = k := by
  cases k <;> rfl

/-- Every register is ready at reset (R38). -/
@[simp] theorem Scoreboard.reset_ready (k : ScoreboardKind) (r : Reg) :
    (Scoreboard.reset k).ready r = true := by
  cases k <;> simp [Scoreboard.reset, Scoreboard.ready]

/-- An invalidated register is not ready (R123). -/
@[simp] theorem Scoreboard.invalidate_ready_self (b : Scoreboard) (r : Reg) :
    (b.invalidate r).ready r = false := by
  cases b <;> simp [Scoreboard.invalidate, Scoreboard.ready]

/-- Invalidating one register leaves the others as they were. -/
theorem Scoreboard.invalidate_ready_other (b : Scoreboard) (r q : Reg) (h : r ≠ q) :
    (b.invalidate r).ready q = b.ready q := by
  cases b <;> simp [Scoreboard.invalidate, Scoreboard.ready, Fin.val_inj, h]

/-- Restoring one register leaves the others as they were. -/
theorem Scoreboard.restore_ready_other (b : Scoreboard) (r q : Reg) (h : r ≠ q) :
    (b.restore r).ready q = b.ready q := by
  cases b <;> simp [Scoreboard.restore, Scoreboard.ready, Fin.val_inj, h]

/-- Under Flag a restored register is ready, whatever else is in flight (R285). -/
theorem Scoreboard.restore_ready_flag (valid : Vector Bool 16) (r : Reg) :
    ((Scoreboard.flag valid).restore r).ready r = true := by
  simp [Scoreboard.restore, Scoreboard.ready]

/-- Under Counter a restored register is ready when at most one writer was pending. -/
theorem Scoreboard.restore_ready_counter (pend : Vector Nat 16) (r : Reg) :
    ((Scoreboard.counter pend).restore r).ready r = decide (pend[r] ≤ 1) := by
  simp only [Scoreboard.restore, Scoreboard.ready, Fin.getElem_fin, Vector.getElem_set_self]
  by_cases h : pend[(r : Nat)] ≤ 1
  · simp [h]
  · simp [h]; omega

/-- An issue followed by the retirement restores the count. -/
theorem Scoreboard.restore_invalidate_counter (pend : Vector Nat 16) (r : Reg) :
    ((Scoreboard.counter pend).invalidate r).restore r = .counter pend := by
  simp [Scoreboard.restore, Scoreboard.invalidate]

/-! ### Decode (R112 to R114) -/

/-- Every source the instruction has is ready. -/
abbrev State.SourcesReady (s : State) (src1 src2 : Option Reg) : Prop :=
  s.sourceReady src1 = true ∧ s.sourceReady src2 = true

@[simp] theorem State.sourceReady_none (s : State) : s.sourceReady none = true := rfl
@[simp] theorem State.sourceReady_some (s : State) (r : Reg) :
    s.sourceReady (some r) = s.scoreboard.ready r := rfl

theorem State.decodeWith_issue {s : State} {a b c : Option Reg} (h : s.SourcesReady a b) :
    s.decodeWith a b c = ((s.readSources a b).invalidateDest c).advanceDecode := by
  simp [State.decodeWith, h.1, h.2]

theorem State.decodeWith_stall {s : State} {a b c : Option Reg} (h : ¬s.SourcesReady a b) :
    s.decodeWith a b c = s.stall := by
  unfold State.decodeWith
  rw [if_neg]
  simpa [State.SourcesReady] using h

/-- Decode issues or stalls, and nothing else. -/
theorem State.decodeWith_cases (s : State) (a b c : Option Reg) :
    (s.SourcesReady a b ∧
      s.decodeWith a b c = ((s.readSources a b).invalidateDest c).advanceDecode) ∨
    (¬s.SourcesReady a b ∧ s.decodeWith a b c = s.stall) := by
  by_cases h : s.SourcesReady a b
  · exact .inl ⟨h, State.decodeWith_issue h⟩
  · exact .inr ⟨h, State.decodeWith_stall h⟩

/-! ### Memory (R119) -/

/-- A load raises its fault or reads the cell, and nothing else. -/
theorem State.memoryLoad_cases (s : State) :
    (s.cellIndex s.m.memoryAddress = none ∧
      s.memoryLoad = s.raiseFault .dataAddressOutOfRange s.m.memoryAddress) ∨
    (∃ k, s.cellIndex s.m.memoryAddress = some k ∧
      s.memoryLoad = ({ s with m := { s.m with resultValue := s.dmem.read k } } : State).passMemory)
    := by
  unfold State.memoryLoad
  cases h : s.cellIndex s.m.memoryAddress with
  | none => exact .inl ⟨rfl, rfl⟩
  | some k => exact .inr ⟨k, rfl, rfl⟩

/-- A store raises its fault or writes the cell, and nothing else. -/
theorem State.memoryStore_cases (s : State) (r : Reg) :
    (s.cellIndex s.m.memoryAddress = none ∧
      s.memoryStore r = s.raiseFault .dataAddressOutOfRange s.m.memoryAddress) ∨
    (∃ k, s.cellIndex s.m.memoryAddress = some k ∧
      s.memoryStore r = ({ s with dmem := s.dmem.write k (s.reg r) } : State).passMemory) := by
  unfold State.memoryStore
  cases h : s.cellIndex s.m.memoryAddress with
  | none => exact .inl ⟨rfl, rfl⟩
  | some k => exact .inr ⟨k, rfl, rfl⟩

/-! ### Execute (R116 to R118) -/

/-- A branch redirects or passes, and nothing else. -/
theorem State.executeBranch_cases (s : State) (c : Bool) (imm : Word) :
    (c = true ∧ s.executeBranch c imm = (s.takeBranch (s.e.pc + imm)).passExecute) ∨
    (c = false ∧ s.executeBranch c imm = s.passExecute) := by
  cases c
  · exact .inr ⟨rfl, rfl⟩
  · refine .inl ⟨rfl, ?_⟩
    rw [← branchTarget_eq]
    rfl

/-- CMP writes Z and passes, or under the fallthrough parameter redirects (R171, R172). -/
theorem State.executeCompare_cases (s : State) :
    let z := decide (s.e.sourceValue1 = s.e.sourceValue2)
    ((s.cfg.cmpFallthrough && z) = true ∧
      s.executeCompare = ((s.setZ z).takeBranch (s.e.pc + s.e.imm)).passExecute) ∨
    ((s.cfg.cmpFallthrough && z) = false ∧ s.executeCompare = (s.setZ z).passExecute) := by
  simp only [State.executeCompare, zeroOfCompare]
  cases hf : s.cfg.cmpFallthrough
  · simp
  · rcases State.executeBranch_cases (s.setZ (decide (s.e.sourceValue1 = s.e.sourceValue2)))
      (decide (s.e.sourceValue1 = s.e.sourceValue2)) s.e.imm with ⟨h, e⟩ | ⟨h, e⟩
    · left
      simpa [h] using e
    · right
      simpa [h] using e

/-! ### The Instruction Store (R110) -/

/-- A fetch finds the instruction whose address is `BASE_ADDR + 4*k`, `k` in the store. -/
theorem State.fetchRecord_ok {s : State} {a : Word} {r : Record} (h : s.fetchRecord a = .ok r) :
    ∃ k : Nat, s.istore[k]? = some r ∧ a.toNat = s.cfg.baseAddr.toNat + 4 * k := by
  unfold State.fetchRecord State.storeIndex at h
  split at h
  · cases h
  · next k hk =>
    dsimp only at hk
    split at hk
    · cases hk
    · split at hk
      · cases hk
      · cases hk
        split at h
        · next hr => cases h; exact ⟨_, hr, by omega⟩
        · cases h

/-- And every such address is found. -/
theorem State.fetchRecord_of_index {s : State} {a : Word} {r : Record} (k : Nat)
    (hk : s.istore[k]? = some r) (ha : a.toNat = s.cfg.baseAddr.toNat + 4 * k) :
    s.fetchRecord a = .ok r := by
  have hlen : k < s.istore.length := by
    rw [List.getElem?_eq_some_iff] at hk
    exact hk.1
  unfold State.fetchRecord State.storeIndex
  have h1 : ((a.toNat : Int) - s.cfg.baseAddr.toNat) = 4 * k := by omega
  simp only [h1]
  rw [if_neg (by omega), if_neg (by omega)]
  have h2 : ((4 * (k : Int)) / 4).toNat = k := by omega
  simp only [h2, hk]

/-- `Load` leaves the address, and the instruction of the record it found (R110). -/
@[simp] theorem State.loadedLatch_pc (s : State) (a : Word) : (s.loadedLatch a).pc = a := by
  unfold State.loadedLatch
  split <;> rfl

@[simp] theorem State.loadedLatch_hasInstruction (s : State) (a : Word) :
    (s.loadedLatch a).hasInstruction = s.f.hasInstruction := by
  unfold State.loadedLatch
  split <;> rfl

theorem State.loadedLatch_instr_ok {s : State} {a : Word} {r : Record}
    (h : s.fetchRecord a = .ok r) : (s.loadedLatch a).instr = some r.instr := by
  unfold State.loadedLatch
  rw [h]
  rfl

theorem State.loadedLatch_opcode_error {s : State} {a : Word} {p : Poison}
    (h : s.fetchRecord a = .error p) : (s.loadedLatch a).opcode = .invalid p := by
  unfold State.loadedLatch
  rw [h]

end Sys2Proof.Machine
end

