-- ==== Sys2Proof/Laws/Exec.lean ====
section
/-!
SUPPORT. What `exec` does in each stage, for every instruction at once, in terms of the shared
operations.
-/

namespace Sys2Proof.Machine

/-- Write the destination, where the instruction has one (R120). -/
def State.writeDestOf (s : State) : Option Reg → State
  | none => s
  | some rd => s.writeDest rd

/-- Forwarded by Fetch: HALT also disables fetching (R106, R107). -/
theorem exec_fetch (i : Instr) (s : State) (h : s.stage = .fetch) :
    exec i s = .next (if i = .halt then s.forward.disableFetch else s.forward) := by
  cases i <;>
    simp [exec, execAdd, execSub, execMul, execDiv, execAnd, execOr, execXor, execAddl, execSubl,
      execMovc, execCmp, execLoad, execStore, execLdr, execStr, execBz, execBnz, execHalt,
      aluRegReg, aluRegImm, branchOn, h]

/-- Decode: one shared operation over the hazard-class table (R112 to R114). -/
theorem exec_decode (i : Instr) (s : State) (h : s.stage = .decode) :
    exec i s = .next (s.decodeWith i.src1 i.src2 i.dest) := by
  cases i <;>
    simp [exec, execAdd, execSub, execMul, execDiv, execAnd, execOr, execXor, execAddl, execSubl,
      execMovc, execCmp, execLoad, execStore, execLdr, execStr, execBz, execBnz, execHalt,
      aluRegReg, aluRegImm, branchOn, h, Instr.src1, Instr.src2, Instr.dest]

/-- Execute, instruction by instruction (R116). -/
theorem exec_execute (i : Instr) (s : State) (h : s.stage = .execute) :
    exec i s = .next (match i with
      | .add _ _ _ => s.executeResultZ (s.e.sourceValue1 + s.e.sourceValue2)
      | .sub _ _ _ => s.executeResultZ (s.e.sourceValue1 - s.e.sourceValue2)
      | .mul _ _ _ => s.executeResultZ (s.e.sourceValue1 * s.e.sourceValue2)
      | .div _ _ _ =>
          match divWord s.e.sourceValue1 s.e.sourceValue2 with
          | .error k => s.raiseFault k s.e.pc
          | .ok v => s.executeResultZ v
      | .and _ _ _ => s.executeResultZ (s.e.sourceValue1 &&& s.e.sourceValue2)
      | .or _ _ _ => s.executeResultZ (s.e.sourceValue1 ||| s.e.sourceValue2)
      | .xor _ _ _ => s.executeResultZ (s.e.sourceValue1 ^^^ s.e.sourceValue2)
      | .addl _ _ imm => s.executeResult (s.e.sourceValue1 + imm)
      | .subl _ _ imm => s.executeResult (s.e.sourceValue1 - imm)
      | .movc _ imm => s.executeResultZ imm
      | .cmp _ _ => s.executeCompare
      | .load _ _ imm => s.executeAddress (s.e.sourceValue1 + imm)
      | .store _ _ imm => s.executeAddress (s.e.sourceValue1 + imm)
      | .ldr _ _ _ => s.executeAddress (s.e.sourceValue1 + s.e.sourceValue2)
      | .str _ _ _ => s.executeAddress (s.e.sourceValue1 + s.e.sourceValue2)
      | .bz imm => s.executeBranch s.z imm
      | .bnz imm => s.executeBranch (!s.z) imm
      | .halt => s.passExecute) := by
  cases i <;>
    simp only [exec, execAdd, execSub, execMul, execDiv, execAnd, execOr, execXor, execAddl,
      execSubl, execMovc, execCmp, execLoad, execStore, execLdr, execStr, execBz, execBnz, execHalt,
      aluRegReg, aluRegImm, branchOn, h, addWord_eq, subWord_eq, mulWord_eq, effectiveAddress_eq,
      andWord, orWord, xorWord]
  · split <;> simp [*]

/-- Memory, instruction by instruction (R119). -/
theorem exec_memory (i : Instr) (s : State) (h : s.stage = .memory) :
    exec i s = .next (match i with
      | .load _ _ _ | .ldr _ _ _ => s.memoryLoad
      | .store r _ _ | .str r _ _ => s.memoryStore r
      | .add _ _ _ | .sub _ _ _ | .mul _ _ _ | .div _ _ _ | .and _ _ _ | .or _ _ _ | .xor _ _ _
      | .addl _ _ _ | .subl _ _ _ | .movc _ _ | .cmp _ _ | .bz _ | .bnz _ | .halt =>
          s.passMemory) := by
  cases i <;>
    simp [exec, execAdd, execSub, execMul, execDiv, execAnd, execOr, execXor, execAddl, execSubl,
      execMovc, execCmp, execLoad, execStore, execLdr, execStr, execBz, execBnz, execHalt,
      aluRegReg, aluRegImm, branchOn, h]

/-- Writeback (R120 to R122). -/
theorem exec_writeback (i : Instr) (s : State) (h : s.stage = .writeback) :
    exec i s = .next (if i = .halt then s.retire.haltCore else (s.writeDestOf i.dest).retire) := by
  cases i <;>
    simp [exec, execAdd, execSub, execMul, execDiv, execAnd, execOr, execXor, execAddl, execSubl,
      execMovc, execCmp, execLoad, execStore, execLdr, execStr, execBz, execBnz, execHalt,
      aluRegReg, aluRegImm, branchOn, h, Instr.dest, State.writeDestOf]

/-- No instruction stops outside the spec: every call of `exec` answers a next state. -/
theorem exec_next (i : Instr) (s : State) : ∃ t, exec i s = .next t := by
  cases h : s.stage with
  | fetch => exact ⟨_, exec_fetch i s h⟩
  | decode => exact ⟨_, exec_decode i s h⟩
  | execute => exact ⟨_, exec_execute i s h⟩
  | memory => exact ⟨_, exec_memory i s h⟩
  | writeback => exact ⟨_, exec_writeback i s h⟩

/-! ### The fields of `writeDestOf` -/

section Fields

variable (s : State) (d : Option Reg)

@[simp] theorem State.writeDestOf_none : s.writeDestOf none = s := rfl
@[simp] theorem State.writeDestOf_some (r : Reg) : s.writeDestOf (some r) = s.writeDest r := rfl
@[simp] theorem State.writeDestOf_cfg : (s.writeDestOf d).cfg = s.cfg := by cases d <;> rfl
@[simp] theorem State.writeDestOf_istore : (s.writeDestOf d).istore = s.istore := by cases d <;> rfl
@[simp] theorem State.writeDestOf_pc : (s.writeDestOf d).pc = s.pc := by cases d <;> rfl
@[simp] theorem State.writeDestOf_z : (s.writeDestOf d).z = s.z := by cases d <;> rfl
@[simp] theorem State.writeDestOf_redirect : (s.writeDestOf d).redirect = s.redirect := by
  cases d <;> rfl
@[simp] theorem State.writeDestOf_dmem : (s.writeDestOf d).dmem = s.dmem := by cases d <;> rfl
@[simp] theorem State.writeDestOf_clock : (s.writeDestOf d).clock = s.clock := by cases d <;> rfl
@[simp] theorem State.writeDestOf_insnCompleted :
    (s.writeDestOf d).insnCompleted = s.insnCompleted := by cases d <;> rfl
@[simp] theorem State.writeDestOf_status : (s.writeDestOf d).status = s.status := by cases d <;> rfl
@[simp] theorem State.writeDestOf_f : (s.writeDestOf d).f = s.f := by cases d <;> rfl
@[simp] theorem State.writeDestOf_fIsStalled : (s.writeDestOf d).fIsStalled = s.fIsStalled := by
  cases d <;> rfl
@[simp] theorem State.writeDestOf_fHeld : (s.writeDestOf d).fHeld = s.fHeld := by cases d <;> rfl
@[simp] theorem State.writeDestOf_d : (s.writeDestOf d).d = s.d := by cases d <;> rfl
@[simp] theorem State.writeDestOf_dIsStalled : (s.writeDestOf d).dIsStalled = s.dIsStalled := by
  cases d <;> rfl
@[simp] theorem State.writeDestOf_e : (s.writeDestOf d).e = s.e := by cases d <;> rfl
@[simp] theorem State.writeDestOf_m : (s.writeDestOf d).m = s.m := by cases d <;> rfl
@[simp] theorem State.writeDestOf_w : (s.writeDestOf d).w = s.w := by cases d <;> rfl
@[simp] theorem State.writeDestOf_stage : (s.writeDestOf d).stage = s.stage := by cases d <;> rfl

end Fields

end Sys2Proof.Machine
end

