-- ==== Sys2Proof/Laws/PerInstr.lean ====
section
/-!
SUPPORT. Families of one lemma per instruction, about the instruction as syntax and its record.
-/

namespace Sys2Proof.Laws

/-- The record of an instruction is well formed (R85). -/
def EncodeWellFormed.Statement (i : Instr) : Prop := (encode i).wf = true

/-- A register index of an encoded record is present and in range (R83). -/
theorem regFieldOk_val (r : Reg) : regFieldOk (some (r.val : Int)) = true := by
  simp only [regFieldOk, decide_eq_true_eq]
  omega

theorem EncodeWellFormed.add (rd rs1 rs2 : Reg) : EncodeWellFormed.Statement (.add rd rs1 rs2) := by
  simp [EncodeWellFormed.Statement, encode, RawRecord.wf, Record.toRaw, Record.ofInstr, Opcode.format,
    Format.uses, regFieldOk_val]

theorem EncodeWellFormed.sub (rd rs1 rs2 : Reg) : EncodeWellFormed.Statement (.sub rd rs1 rs2) := by
  simp [EncodeWellFormed.Statement, encode, RawRecord.wf, Record.toRaw, Record.ofInstr, Opcode.format,
    Format.uses, regFieldOk_val]

theorem EncodeWellFormed.mul (rd rs1 rs2 : Reg) : EncodeWellFormed.Statement (.mul rd rs1 rs2) := by
  simp [EncodeWellFormed.Statement, encode, RawRecord.wf, Record.toRaw, Record.ofInstr, Opcode.format,
    Format.uses, regFieldOk_val]

theorem EncodeWellFormed.div (rd rs1 rs2 : Reg) : EncodeWellFormed.Statement (.div rd rs1 rs2) := by
  simp [EncodeWellFormed.Statement, encode, RawRecord.wf, Record.toRaw, Record.ofInstr, Opcode.format,
    Format.uses, regFieldOk_val]

theorem EncodeWellFormed.and (rd rs1 rs2 : Reg) : EncodeWellFormed.Statement (.and rd rs1 rs2) := by
  simp [EncodeWellFormed.Statement, encode, RawRecord.wf, Record.toRaw, Record.ofInstr, Opcode.format,
    Format.uses, regFieldOk_val]

theorem EncodeWellFormed.or (rd rs1 rs2 : Reg) : EncodeWellFormed.Statement (.or rd rs1 rs2) := by
  simp [EncodeWellFormed.Statement, encode, RawRecord.wf, Record.toRaw, Record.ofInstr, Opcode.format,
    Format.uses, regFieldOk_val]

theorem EncodeWellFormed.xor (rd rs1 rs2 : Reg) : EncodeWellFormed.Statement (.xor rd rs1 rs2) := by
  simp [EncodeWellFormed.Statement, encode, RawRecord.wf, Record.toRaw, Record.ofInstr, Opcode.format,
    Format.uses, regFieldOk_val]

theorem EncodeWellFormed.addl (rd rs1 : Reg) (imm : Word) : EncodeWellFormed.Statement (.addl rd rs1 imm) := by
  simp [EncodeWellFormed.Statement, encode, RawRecord.wf, Record.toRaw, Record.ofInstr, Opcode.format,
    Format.uses, regFieldOk_val]

theorem EncodeWellFormed.subl (rd rs1 : Reg) (imm : Word) : EncodeWellFormed.Statement (.subl rd rs1 imm) := by
  simp [EncodeWellFormed.Statement, encode, RawRecord.wf, Record.toRaw, Record.ofInstr, Opcode.format,
    Format.uses, regFieldOk_val]

theorem EncodeWellFormed.movc (rd : Reg) (imm : Word) : EncodeWellFormed.Statement (.movc rd imm) := by
  simp [EncodeWellFormed.Statement, encode, RawRecord.wf, Record.toRaw, Record.ofInstr, Opcode.format,
    Format.uses, regFieldOk_val]

theorem EncodeWellFormed.cmp (rs1 rs2 : Reg) : EncodeWellFormed.Statement (.cmp rs1 rs2) := by
  simp [EncodeWellFormed.Statement, encode, RawRecord.wf, Record.toRaw, Record.ofInstr, Opcode.format,
    Format.uses, regFieldOk_val]

theorem EncodeWellFormed.load (rd rs1 : Reg) (imm : Word) : EncodeWellFormed.Statement (.load rd rs1 imm) := by
  simp [EncodeWellFormed.Statement, encode, RawRecord.wf, Record.toRaw, Record.ofInstr, Opcode.format,
    Format.uses, regFieldOk_val]

theorem EncodeWellFormed.store (rdata rbase : Reg) (imm : Word) : EncodeWellFormed.Statement (.store rdata rbase imm) := by
  simp [EncodeWellFormed.Statement, encode, RawRecord.wf, Record.toRaw, Record.ofInstr, Opcode.format,
    Format.uses, regFieldOk_val]

theorem EncodeWellFormed.ldr (rd rs1 rs2 : Reg) : EncodeWellFormed.Statement (.ldr rd rs1 rs2) := by
  simp [EncodeWellFormed.Statement, encode, RawRecord.wf, Record.toRaw, Record.ofInstr, Opcode.format,
    Format.uses, regFieldOk_val]

theorem EncodeWellFormed.str (rdata rs1 rs2 : Reg) : EncodeWellFormed.Statement (.str rdata rs1 rs2) := by
  simp [EncodeWellFormed.Statement, encode, RawRecord.wf, Record.toRaw, Record.ofInstr, Opcode.format,
    Format.uses, regFieldOk_val]

theorem EncodeWellFormed.bz (imm : Word) : EncodeWellFormed.Statement (.bz imm) := by
  simp [EncodeWellFormed.Statement, encode, RawRecord.wf, Record.toRaw, Record.ofInstr, Opcode.format,
    Format.uses]

theorem EncodeWellFormed.bnz (imm : Word) : EncodeWellFormed.Statement (.bnz imm) := by
  simp [EncodeWellFormed.Statement, encode, RawRecord.wf, Record.toRaw, Record.ofInstr, Opcode.format,
    Format.uses]

theorem EncodeWellFormed.halt : EncodeWellFormed.Statement .halt := by
  simp [EncodeWellFormed.Statement, encode, RawRecord.wf, Record.toRaw, Record.ofInstr, Opcode.format,
    Format.uses]

/-- The admitted record of an instruction stands for that instruction, whatever its display text
(R80, R84). -/
def RecordKeepsInstr.Statement (i : Instr) : Prop :=
  ∀ mnemonic, (Record.ofInstr i mnemonic).instr = i

theorem RecordKeepsInstr.add (rd rs1 rs2 : Reg) : RecordKeepsInstr.Statement (.add rd rs1 rs2) := fun _ => rfl

theorem RecordKeepsInstr.sub (rd rs1 rs2 : Reg) : RecordKeepsInstr.Statement (.sub rd rs1 rs2) := fun _ => rfl

theorem RecordKeepsInstr.mul (rd rs1 rs2 : Reg) : RecordKeepsInstr.Statement (.mul rd rs1 rs2) := fun _ => rfl

theorem RecordKeepsInstr.div (rd rs1 rs2 : Reg) : RecordKeepsInstr.Statement (.div rd rs1 rs2) := fun _ => rfl

theorem RecordKeepsInstr.and (rd rs1 rs2 : Reg) : RecordKeepsInstr.Statement (.and rd rs1 rs2) := fun _ => rfl

theorem RecordKeepsInstr.or (rd rs1 rs2 : Reg) : RecordKeepsInstr.Statement (.or rd rs1 rs2) := fun _ => rfl

theorem RecordKeepsInstr.xor (rd rs1 rs2 : Reg) : RecordKeepsInstr.Statement (.xor rd rs1 rs2) := fun _ => rfl

theorem RecordKeepsInstr.addl (rd rs1 : Reg) (imm : Word) : RecordKeepsInstr.Statement (.addl rd rs1 imm) := fun _ => rfl

theorem RecordKeepsInstr.subl (rd rs1 : Reg) (imm : Word) : RecordKeepsInstr.Statement (.subl rd rs1 imm) := fun _ => rfl

theorem RecordKeepsInstr.movc (rd : Reg) (imm : Word) : RecordKeepsInstr.Statement (.movc rd imm) := fun _ => rfl

theorem RecordKeepsInstr.cmp (rs1 rs2 : Reg) : RecordKeepsInstr.Statement (.cmp rs1 rs2) := fun _ => rfl

theorem RecordKeepsInstr.load (rd rs1 : Reg) (imm : Word) : RecordKeepsInstr.Statement (.load rd rs1 imm) := fun _ => rfl

theorem RecordKeepsInstr.store (rdata rbase : Reg) (imm : Word) : RecordKeepsInstr.Statement (.store rdata rbase imm) := fun _ => rfl

theorem RecordKeepsInstr.ldr (rd rs1 rs2 : Reg) : RecordKeepsInstr.Statement (.ldr rd rs1 rs2) := fun _ => rfl

theorem RecordKeepsInstr.str (rdata rs1 rs2 : Reg) : RecordKeepsInstr.Statement (.str rdata rs1 rs2) := fun _ => rfl

theorem RecordKeepsInstr.bz (imm : Word) : RecordKeepsInstr.Statement (.bz imm) := fun _ => rfl

theorem RecordKeepsInstr.bnz (imm : Word) : RecordKeepsInstr.Statement (.bnz imm) := fun _ => rfl

theorem RecordKeepsInstr.halt : RecordKeepsInstr.Statement .halt := fun _ => rfl

end Sys2Proof.Laws
end

