-- ==== Sys2Proof/Laws/Step.lean ====
section
/-!
SUPPORT. What a step can do, said once: the inversion of the driver's turn and of each stage, and
the rule by which a property is carried through the five stages of a cycle.
-/

namespace Sys2Proof.Machine

/-! ### The driver's turn (R103) and the sequencing of stages (R100) -/

/-- A step stays at a final state, stops at the budget, or evaluates one cycle. -/
theorem step_cases {s t : State} (h : step s = .next t) :
    (s.status ≠ .running ∧ t = s) ∨
    (s.status = .running ∧ s.clock = s.cfg.maxCycles ∧ t = { s with status := .budgetExhausted }) ∨
    (EvaluatesCycle s ∧ cycle s = .next t) := by
  unfold step advance at h
  split at h
  · next hr =>
    split at h
    · next hc => cases h; exact .inr (.inl ⟨hr, hc, rfl⟩)
    · next hc => exact .inr (.inr ⟨⟨hr, hc⟩, h⟩)
  · next hr => cases h; exact .inl ⟨hr, rfl⟩

/-- A step that evaluates a cycle is that cycle. -/
theorem step_of_evaluates {s : State} (h : EvaluatesCycle s) : step s = cycle s := by
  simp [step, advance, h.1, h.2]

@[simp] theorem thenStage_next (s : State) (st : Stage) (k : State → Result) :
    thenStage (.next s) st k =
      if s.status = .running then k { s with stage := st } else .next s := rfl

theorem thenStage_running {s : State} (st : Stage) (k : State → Result)
    (h : s.status = .running) : thenStage (.next s) st k = k { s with stage := st } := by
  simp [h]

theorem thenStage_stopped {s : State} (st : Stage) (k : State → Result)
    (h : s.status ≠ .running) : thenStage (.next s) st k = .next s := by
  simp [h]

/-- What came before a stage that left a next state. -/
theorem thenStage_cases {o : Result} {st : Stage} {k : State → Result} {t : State}
    (h : thenStage o st k = .next t) :
    ∃ s, o = .next s ∧ ((s.status = .running ∧ k { s with stage := st } = .next t) ∨
      (s.status ≠ .running ∧ t = s)) := by
  cases o with
  | next s =>
    refine ⟨s, rfl, ?_⟩
    rw [thenStage_next] at h
    split at h
    · next hr => exact .inl ⟨hr, h⟩
    · next hr => cases h; exact .inr ⟨hr, rfl⟩
  | fault r => cases h
  | refused r => cases h

/-- How a cycle closes (R101). -/
theorem closeCycle_cases {o : Result} {t : State} (h : closeCycle o = .next t) :
    ∃ s, o = .next s ∧
      ((s.status = .running ∧ t = { s.tick with stage := .writeback }) ∨
       (s.status ≠ .running ∧ t = { s with stage := .writeback })) := by
  cases o with
  | next s =>
    refine ⟨s, rfl, ?_⟩
    simp only [closeCycle] at h
    split at h
    · next hr => cases h; exact .inl ⟨hr, rfl⟩
    · next hr => cases h; exact .inr ⟨hr, rfl⟩
  | fault r => cases h
  | refused r => cases h

/-! ### The stages -/

/-- Writeback: nothing, a halt, or a retirement (R120 to R122). -/
theorem writebackStage_cases {s t : State} (hs : s.stage = .writeback)
    (h : writebackStage s = .next t) :
    (s.w.hasInstruction = false ∧ t = s) ∨
    (s.w.holdsHalt ∧ t = s.retire.haltCore) ∨
    (∃ i, s.w.holds i ∧ i ≠ .halt ∧ t = (s.writeDestOf i.dest).retire) := by
  unfold writebackStage at h
  split at h
  · next hl =>
    split at h
    · next i hi =>
      rw [exec_writeback i s hs] at h
      split at h
      · next hh => cases h; subst hh; exact .inr (.inl ⟨⟨hl, hi⟩, rfl⟩)
      · next hh => cases h; exact .inr (.inr ⟨i, ⟨hl, hi⟩, hh, rfl⟩)
    · cases h
  · next hl => cases h; exact .inl ⟨by simpa using hl, rfl⟩

/-- Memory: a copy, a load, a store, or a fault (R119). -/
theorem memoryStage_cases {s t : State} (hs : s.stage = .memory) (h : memoryStage s = .next t) :
    (s.m.hasInstruction = false ∧ t = s.passMemory) ∨
    (∃ i, s.m.holds i ∧
      ((i.accessesMemory = false ∧ t = s.passMemory) ∨
       (∃ k, i.accessesMemory = true ∧ i.storeData = none ∧
          s.cellIndex s.m.memoryAddress = some k ∧
          t = ({ s with m := { s.m with resultValue := s.dmem.read k } } : State).passMemory) ∨
       (∃ k r, i.storeData = some r ∧ s.cellIndex s.m.memoryAddress = some k ∧
          t = ({ s with dmem := s.dmem.write k (s.reg r) } : State).passMemory) ∨
       (i.accessesMemory = true ∧ s.cellIndex s.m.memoryAddress = none ∧
          t = s.raiseFault .dataAddressOutOfRange s.m.memoryAddress))) := by
  unfold memoryStage at h
  split at h
  · next hl =>
    split at h
    · next i hi =>
      right
      refine ⟨i, ⟨hl, hi⟩, ?_⟩
      rw [exec_memory i s hs] at h
      cases h
      cases i
      case load | ldr =>
        rcases State.memoryLoad_cases s with ⟨hn, e⟩ | ⟨k, hk, e⟩
        · exact .inr (.inr (.inr ⟨rfl, hn, e⟩))
        · exact .inr (.inl ⟨k, rfl, rfl, hk, e⟩)
      case store r _ _ | str r _ _ =>
        rcases State.memoryStore_cases s r with ⟨hn, e⟩ | ⟨k, hk, e⟩
        · exact .inr (.inr (.inr ⟨rfl, hn, e⟩))
        · exact .inr (.inr (.inl ⟨k, r, rfl, hk, e⟩))
      all_goals exact .inl ⟨rfl, rfl⟩
    · cases h
  · next hl => cases h; exact .inl ⟨by simpa using hl, rfl⟩

/-- Execute: a copy, a result or address with Z perhaps written, a taken branch, or DIV's fault
(R116 to R118, R251, R252). -/
theorem executeStage_cases {s t : State} (hs : s.stage = .execute)
    (h : executeStage s = .next t) :
    (s.e.hasInstruction = false ∧ t = s.passExecute) ∨
    (∃ i, s.e.holds i ∧
      ((∃ v a z, (z = s.z ∨ i.writesZ = true) ∧
          t = ({ s with e := { s.e with resultValue := v, memoryAddress := a }, z := z }
            : State).passExecute) ∨
       (∃ target z, (z = s.z ∨ i.writesZ = true) ∧
          t = ((s.setZ z).takeBranch target).passExecute) ∨
       (∃ k, (∃ rd rs1 rs2, i = .div rd rs1 rs2) ∧
          divWord s.e.sourceValue1 s.e.sourceValue2 = .error k ∧ t = s.raiseFault k s.e.pc))) := by
  unfold executeStage at h
  split at h
  · next hl =>
    split at h
    · next i hi =>
      right
      refine ⟨i, ⟨hl, hi⟩, ?_⟩
      rw [exec_execute i s hs] at h
      cases h
      have same : s.passExecute = ({ s with
        e := { s.e with resultValue := s.e.resultValue, memoryAddress := s.e.memoryAddress },
        z := s.z } : State).passExecute := rfl
      have branch : ∀ c imm, ((∃ v a z, (z = s.z ∨ i.writesZ = true) ∧
          s.executeBranch c imm = ({ s with
            e := { s.e with resultValue := v, memoryAddress := a }, z := z } : State).passExecute) ∨
          (∃ target z, (z = s.z ∨ i.writesZ = true) ∧
            s.executeBranch c imm = ((s.setZ z).takeBranch target).passExecute)) := by
        intro c imm
        rcases State.executeBranch_cases s c imm with ⟨_, e⟩ | ⟨_, e⟩
        · exact .inr ⟨_, s.z, .inl rfl, e⟩
        · exact .inl ⟨_, _, _, .inl rfl, e.trans same⟩
      cases i with
      | add _ _ _ | sub _ _ _ | mul _ _ _ | and _ _ _ | or _ _ _ | xor _ _ _ | movc _ _ =>
        exact .inl ⟨_, s.e.memoryAddress, _, .inr rfl, rfl⟩
      | div rd rs1 rs2 =>
        dsimp only
        split
        · next k hk => exact .inr (.inr ⟨k, ⟨rd, rs1, rs2, rfl⟩, hk, rfl⟩)
        · exact .inl ⟨_, s.e.memoryAddress, _, .inr rfl, rfl⟩
      | addl _ _ _ | subl _ _ _ => exact .inl ⟨_, s.e.memoryAddress, s.z, .inl rfl, rfl⟩
      | load _ _ _ | store _ _ _ | ldr _ _ _ | str _ _ _ =>
        exact .inl ⟨s.e.resultValue, _, s.z, .inl rfl, rfl⟩
      | cmp _ _ =>
        rcases State.executeCompare_cases s with ⟨_, e⟩ | ⟨_, e⟩
        · exact .inr (.inl ⟨_, _, .inr rfl, e⟩)
        · exact .inl ⟨s.e.resultValue, s.e.memoryAddress, _, .inr rfl, e⟩
      | bz imm =>
        rcases branch s.z imm with h | h
        · exact .inl h
        · exact .inr (.inl h)
      | bnz imm =>
        rcases branch (!s.z) imm with h | h
        · exact .inl h
        · exact .inr (.inl h)
      | halt => exact .inl ⟨_, _, _, .inl rfl, same⟩
    · cases h
  · next hl => cases h; exact .inl ⟨by simpa using hl, rfl⟩

/-- Decode: nothing, a fetch fault, an issue or a stall (R111 to R114). -/
theorem decodeStage_cases {s t : State} (hs : s.stage = .decode) (h : decodeStage s = .next t) :
    (s.d.hasInstruction = false ∧ t = s) ∨
    (∃ p, s.d.hasInstruction = true ∧ s.d.opcode = .invalid p ∧
      t = s.raiseFault p.faultKind s.d.pc) ∨
    (∃ i, s.d.holds i ∧ t = s.decodeWith i.src1 i.src2 i.dest) := by
  unfold decodeStage at h
  split at h
  · next hl =>
    split at h
    · next p hp => cases h; exact .inr (.inl ⟨p, hl, hp, rfl⟩)
    · next o ho =>
      rw [exec_decode _ s hs] at h
      cases h
      exact .inr (.inr ⟨_, ⟨hl, by simp [ho]⟩, rfl⟩)
  · next hl => cases h; exact .inl ⟨by simpa using hl, rfl⟩

/-- Forwarding: the latch goes to Decode, and a HALT disables fetching (R106, R107). -/
theorem forwardStage_eq {s : State} (hs : s.stage = .fetch) :
    forwardStage s =
      .next (if s.f.instr = some .halt then s.forward.disableFetch else s.forward) := by
  unfold forwardStage
  split
  · next i hi => rw [exec_fetch i s hs, hi]; simp
  · next hi => simp [hi]

/-- Fetch: skip, hold, forward a fresh load, forward a held latch, or idle (R104 to R109). -/
theorem fetchStage_cases {s t : State} (hs : s.stage = .fetch) (h : fetchStage s = .next t) :
    (s.redirect = true ∧ t = { s with redirect := false }) ∨
    (s.redirect = false ∧ s.f.hasInstruction = true ∧ s.fIsStalled = true ∧ t = s.holdFetch) ∨
    (s.redirect = false ∧ s.f.hasInstruction = true ∧ s.fIsStalled = false ∧
      t = if (s.loadedLatch s.pc).instr = some .halt then s.loadAtPc.forward.disableFetch
        else s.loadAtPc.forward) ∨
    (s.redirect = false ∧ s.f.hasInstruction = false ∧ s.fIsStalled = false ∧ s.fHeld = true ∧
      t = if s.f.instr = some .halt then s.resumeFetch.forward.disableFetch
        else s.resumeFetch.forward) ∨
    (s.redirect = false ∧ s.f.hasInstruction = false ∧ (s.fIsStalled = true ∨ s.fHeld = false) ∧
      t = s) := by
  unfold fetchStage at h
  cases hr : s.redirect <;> simp only [hr, Bool.false_eq_true, if_true, if_false] at h
  · cases hf : s.f.hasInstruction <;> simp only [hf, Bool.false_eq_true, if_true, if_false] at h
    · cases hst : s.fIsStalled <;> cases hh : s.fHeld <;>
        simp only [hst, hh, Bool.not_true, Bool.not_false, Bool.and_true, Bool.and_false,
          Bool.false_eq_true, if_true, if_false] at h
      · cases h; simp
      · rw [forwardStage_eq (by simpa using hs)] at h
        cases h
        right; right; right; left
        refine ⟨rfl, rfl, rfl, rfl, ?_⟩
        rfl
      · cases h; simp
      · cases h; simp
    · cases hst : s.fIsStalled <;> simp only [hst, Bool.false_eq_true, if_true, if_false] at h
      · rw [forwardStage_eq (by simpa using hs)] at h
        cases h
        right; right; left
        refine ⟨rfl, rfl, rfl, ?_⟩
        rfl
      · cases h; simp
  · cases h; simp

/-! ### A property through a cycle -/

/-- To show that every cycle from a state with `P0` ends in a state with `Q`, carry properties `P1`
to `P5` from stage to stage, and reach `Q` from each stage that may stop the core. -/
theorem cycle_rule {P0 P1 P2 P3 P4 P5 Q : State → Prop}
    (hwb : ∀ s t, P0 s → s.status = .running → s.stage = .writeback → writebackStage s = .next t →
      (t.status = .running → P1 { t with stage := .memory }) ∧ (t.status ≠ .running → Q t))
    (hmem : ∀ s t, P1 s → s.status = .running → s.stage = .memory → memoryStage s = .next t →
      (t.status = .running → P2 { t with stage := .execute }) ∧ (t.status ≠ .running → Q t))
    (hex : ∀ s t, P2 s → s.status = .running → s.stage = .execute → executeStage s = .next t →
      (t.status = .running → P3 { t with stage := .decode }) ∧ (t.status ≠ .running → Q t))
    (hdec : ∀ s t, P3 s → s.status = .running → s.stage = .decode → decodeStage s = .next t →
      (t.status = .running → P4 { t with stage := .fetch }) ∧ (t.status ≠ .running → Q t))
    (hfet : ∀ s t, P4 s → s.status = .running → s.stage = .fetch → fetchStage s = .next t →
      (t.status = .running → P5 t) ∧ (t.status ≠ .running → Q t))
    (hend : ∀ s, P5 s → s.status = .running → Q s.tick)
    {s t : State} (h0 : P0 { s with stage := .writeback }) (hr : s.status = .running)
    (h : cycle s = .next t) : ∃ u, Q u ∧ t = { u with stage := .writeback } := by
  unfold cycle at h
  obtain ⟨s5, h5, hc⟩ := closeCycle_cases h
  obtain ⟨s4, h4, c4⟩ := thenStage_cases h5
  obtain ⟨s3, h3, c3⟩ := thenStage_cases h4
  obtain ⟨s2, h2, c2⟩ := thenStage_cases h3
  obtain ⟨s1, h1, c1⟩ := thenStage_cases h2
  have stop : ∀ u, Q u → u.status ≠ .running → s5 = u → ∃ u, Q u ∧ t = { u with stage := .writeback }
      := by
    intro u hu hn e
    subst e
    rcases hc with ⟨hr', _⟩ | ⟨_, e⟩
    · exact absurd hr' hn
    · exact ⟨_, hu, e⟩
  have w := hwb _ _ h0 hr rfl h1
  rcases c1 with ⟨r1, e1⟩ | ⟨n1, e1⟩
  · have m := hmem _ _ (w.1 r1) r1 rfl e1
    rcases c2 with ⟨r2, e2⟩ | ⟨n2, e2⟩
    · have x := hex _ _ (m.1 r2) r2 rfl e2
      rcases c3 with ⟨r3, e3⟩ | ⟨n3, e3⟩
      · have d := hdec _ _ (x.1 r3) r3 rfl e3
        rcases c4 with ⟨r4, e4⟩ | ⟨n4, e4⟩
        · have f := hfet _ _ (d.1 r4) r4 rfl e4
          rcases hc with ⟨r5, e5⟩ | ⟨n5, e5⟩
          · exact ⟨_, hend _ (f.1 r5) r5, e5⟩
          · exact ⟨_, f.2 n5, e5⟩
        · exact stop _ (d.2 n4) n4 e4
      · subst e3
        rcases c4 with ⟨r4, _⟩ | ⟨_, e4⟩
        · exact absurd r4 n3
        · exact stop _ (x.2 n3) n3 e4
    · subst e2
      rcases c3 with ⟨r3, _⟩ | ⟨_, e3⟩
      · exact absurd r3 n2
      · subst e3
        rcases c4 with ⟨r4, _⟩ | ⟨_, e4⟩
        · exact absurd r4 n2
        · exact stop _ (m.2 n2) n2 e4
  · subst e1
    rcases c2 with ⟨r2, _⟩ | ⟨_, e2⟩
    · exact absurd r2 n1
    · subst e2
      rcases c3 with ⟨r3, _⟩ | ⟨_, e3⟩
      · exact absurd r3 n1
      · subst e3
        rcases c4 with ⟨r4, _⟩ | ⟨_, e4⟩
        · exact absurd r4 n1
        · exact stop _ (w.2 n1) n1 e4

end Sys2Proof.Machine
end

