-- ==== Sys2Proof/Tests/Slice0.lean ====
section
/-!
SUPPORT. The model's own tests: what the checks refuse, every constructor's decoding from a
written-out record, single stage actions with the values of 95_test_vectors.md, and a concrete
state for every statement that has hypotheses.
-/

namespace Sys2Proof.Tests

open Sys2Proof Sys2Proof.Machine

/-! ### Helpers -/

/-- The signed value as a word. -/
def i32 (v : Int) : Word := BitVec.ofInt 32 v

/-- The state an outcome answers; the reset state where it answers none. -/
def landing : Result → State
  | .next s => s
  | .fault _ => State.reset
  | .refused _ => State.reset

/-- Whether an outcome is a next state. -/
def isNext : Result → Bool
  | .next _ => true
  | .fault _ => false
  | .refused _ => false

theorem next_landing {o : Result} (h : isNext o = true) : o = .next (landing o) := by
  cases o <;> simp_all [isNext, landing]

/-- A live latch at address `pc` holding `i`, with its source values, result and data address. -/
def lat (i : Instr) (pc : Word) (sv1 sv2 result address : Int) : Latch :=
  let r := Record.ofInstr i i.opcode.name
  { hasInstruction := true, pc := pc, opcode := .known r.opcode, rd := r.rd, rs1 := r.rs1
    rs2 := r.rs2, imm := r.imm, mnemonic := r.mnemonic, sourceValue1 := i32 sv1
    sourceValue2 := i32 sv2, resultValue := i32 result, memoryAddress := i32 address }

/-- A core with the given program, five cycles into a run, no latch live but Fetch's. -/
def coreWith (kind : ScoreboardKind) (p : List Instr) : State :=
  { State.init { Config.default with scoreboardKind := kind }
      (p.map fun i => Record.ofInstr i i.opcode.name) with clock := 5, insnCompleted := 1 }

/-- The core in stage `st`, with R1 = 10, R2 = 4 and cell 14 = 9. -/
def inStage (st : Stage) : State :=
  { (coreWith .flag [.halt]) with
    stage := st
    x := ((Vector.replicate 16 0).set 1 10).set 2 4
    dmem := ⟨[(14, 9)]⟩ }

/-- Execute with the two source values. -/
def inExecute (sv1 sv2 : Int) : State :=
  { inStage .execute with e := lat .halt 4000 sv1 sv2 0 0, z := false }

/-- What Execute leaves: the result on its way to Memory, and Z. -/
def executed (i : Instr) (s : State) : Word × Bool :=
  let t := landing (exec i s)
  (t.m.resultValue, t.z)

/-- The Memory stage with data address `a`. -/
def inMemory (a : Int) : State := { inStage .memory with m := lat .halt 4000 0 0 0 a }

/-- Writeback with result `v`. -/
def inWriteback (v : Int) : State := { inStage .writeback with w := lat .halt 4000 0 0 v 0 }

/-! ### Well-formedness: one ill-formed term for each check (R85, V-EXC-4; R7) -/

theorem test_wf_refuses_unknown_opcode :
    RawRecord.wf ⟨.unknown "NOP", some 0, some 0, some 0, some 0, "NOP"⟩ = false := by decide
theorem test_wf_refuses_rd_16 :
    RawRecord.wf ⟨.named .add, some 16, some 0, some 1, some 0, "ADD"⟩ = false := by decide
theorem test_wf_refuses_rs1_negative :
    RawRecord.wf ⟨.named .add, some 0, some (-1), some 1, some 0, "ADD"⟩ = false := by decide
theorem test_wf_refuses_rs2_absent :
    RawRecord.wf ⟨.named .cmp, none, some 0, none, none, "CMP"⟩ = false := by decide
theorem test_wf_refuses_imm_absent :
    RawRecord.wf ⟨.named .bz, none, none, none, none, "BZ"⟩ = false := by decide
theorem test_wf_ignores_unused_fields :
    RawRecord.wf ⟨.named .halt, none, some 99, some (-7), none, "HALT"⟩ = true := by decide
theorem test_wf_refuses_empty_program : programWf [] = false := by decide
theorem test_wf_refuses_one_bad_record :
    programWf [encode .halt, ⟨.unknown "NOP", none, none, none, none, ""⟩] = false := by decide
theorem test_wf_refuses_no_data_memory :
    Config.wf { Config.default with dmemSize := 0 } 1 = false := by decide
theorem test_wf_refuses_program_past_the_address_space :
    Config.wf { Config.default with baseAddr := 0xFFFFFFFC#32 } 2 = false := by decide
theorem test_wf_admits_last_address :
    Config.wf { Config.default with baseAddr := 0xFFFFFFFC#32 } 1 = true := by decide
theorem test_construct_refuses_empty :
    construct Config.default [] = .error .emptyProgram := by rfl
theorem test_construct_refuses_register_16 :
    construct Config.default [⟨.named .add, some 16, some 0, some 1, some 0, "ADD"⟩] =
      .error (.malformedEntry (.registerOutOfRange .rd 16)) := by rfl
theorem test_construct_refuses_unknown_opcode :
    construct Config.default [⟨.unknown "NOP", none, none, none, none, "NOP"⟩] =
      .error (.malformedEntry (.unknownOpcode "NOP")) := by rfl
theorem test_construct_refuses_no_data_memory :
    construct { Config.default with dmemSize := 0 } [encode .halt] =
      .error .parameterOutOfDomain := by rfl
theorem test_decode_names_absent_imm :
    decode ⟨.named .movc, some 1, none, none, none, "MOVC"⟩ = .error (.missingField .imm) := by rfl
theorem test_decode_names_register_16 :
    decode ⟨.named .cmp, none, some 15, some 16, none, "CMP"⟩ =
      .error (.registerOutOfRange .rs2 16) := by rfl
theorem test_no_word_is_an_instruction : decodeTableWord 32 0 = none := by decide

/-! ### Decoding: the record of every opcode, written out from its row (R80, R81, R84; the records
of 95_test_vectors.md section 9 where it has one) -/

theorem test_decode_add :
    decode ⟨.named .add, some 2, some 0, some 1, some 0, "ADD"⟩ = .ok (.add 2 0 1) := by rfl
theorem test_decode_sub :
    decode ⟨.named .sub, some 10, some 8, some 7, some 0, "SUB"⟩ = .ok (.sub 10 8 7) := by rfl
theorem test_decode_mul :
    decode ⟨.named .mul, some 7, some 3, some 3, some 0, "MUL"⟩ = .ok (.mul 7 3 3) := by rfl
theorem test_decode_div :
    decode ⟨.named .div, some 8, some 7, some 4, some 0, "DIV"⟩ = .ok (.div 8 7 4) := by rfl
theorem test_decode_and :
    decode ⟨.named .and, some 11, some 10, some 4, some 0, "AND"⟩ = .ok (.and 11 10 4) := by rfl
theorem test_decode_or :
    decode ⟨.named .or, some 15, some 1, some 2, some 0, "OR"⟩ = .ok (.or 15 1 2) := by rfl
theorem test_decode_xor :
    decode ⟨.named .xor, some 9, some 8, some 3, some 0, "XOR"⟩ = .ok (.xor 9 8 3) := by rfl
theorem test_decode_addl :
    decode ⟨.named .addl, some 5, some 6, some 0, some 1, "ADDL"⟩ = .ok (.addl 5 6 1) := by rfl
theorem test_decode_subl :
    decode ⟨.named .subl, some 2, some 3, some 0, some 1, "SUBL"⟩ = .ok (.subl 2 3 1) := by rfl
theorem test_decode_movc :
    decode ⟨.named .movc, some 2, some 0, some 0, some (-3), "MOVC"⟩ = .ok (.movc 2 (-3)) := by rfl
theorem test_decode_cmp :
    decode ⟨.named .cmp, some 0, some 5, some 4, some 0, "CMP"⟩ = .ok (.cmp 5 4) := by rfl
theorem test_decode_load :
    decode ⟨.named .load, some 4, some 3, some 0, some 0, "LOAD"⟩ = .ok (.load 4 3 0) := by rfl
theorem test_decode_store :
    decode ⟨.named .store, some 2, some 1, some 0, some 2, "STORE"⟩ = .ok (.store 2 1 2) := by rfl
theorem test_decode_ldr :
    decode ⟨.named .ldr, some 6, some 1, some 5, some 0, "LDR"⟩ = .ok (.ldr 6 1 5) := by rfl
theorem test_decode_str :
    decode ⟨.named .str, some 9, some 1, some 4, some 0, "STR"⟩ = .ok (.str 9 1 4) := by rfl
theorem test_decode_bz :
    decode ⟨.named .bz, some 0, some 0, some 0, some 8, "BZ"⟩ = .ok (.bz 8) := by rfl
theorem test_decode_bnz :
    decode ⟨.named .bnz, some 0, some 0, some 0, some (-16), "BNZ"⟩ = .ok (.bnz (-16)) := by rfl
theorem test_decode_halt :
    decode ⟨.named .halt, some 0, some 0, some 0, some 0, "HALT"⟩ = .ok .halt := by rfl

/-! ### One stage action per test; the expected values are those of 95_test_vectors.md -/

theorem test_add_wraps :
    executed (.add 2 0 1) (inExecute 2147483647 1) = (i32 (-2147483648), false) := by rfl
theorem test_add_zero_sets_z : executed (.add 2 0 1) (inExecute 5 (-5)) = (0, true) := by rfl
theorem test_sub_order : executed (.sub 2 0 1) (inExecute 3 5) = (i32 (-2), false) := by rfl
theorem test_sub_wraps :
    executed (.sub 2 0 1) (inExecute (-2147483648) 1) = (i32 2147483647, false) := by rfl
theorem test_mul_wraps :
    executed (.mul 2 0 1) (inExecute 46341 46341) = (i32 (-2147479015), false) := by rfl
theorem test_mul_zero_sets_z : executed (.mul 2 0 1) (inExecute 65536 65536) = (0, true) := by rfl
theorem test_div_truncates : executed (.div 2 0 1) (inExecute (-7) 2) = (i32 (-3), false) := by rfl
theorem test_div_zero_first :
    (landing (exec (.div 2 0 1) (inExecute (-2147483648) 0))).status =
      .faulted .divideByZero 4000 := by rfl
theorem test_and : executed (.and 2 0 1) (inExecute (-131) 3) = (1, false) := by rfl
theorem test_or :
    executed (.or 2 0 1) (inExecute (-2147483648) 1) = (i32 (-2147483647), false) := by rfl
theorem test_xor : executed (.xor 2 0 1) (inExecute (-1) 5) = (i32 (-6), false) := by rfl
theorem test_xor_zero_sets_z : executed (.xor 2 0 1) (inExecute 99 99) = (0, true) := by rfl
theorem test_addl_leaves_z : executed (.addl 2 0 (-10)) (inExecute 10 0) = (0, false) := by rfl
theorem test_subl_wraps :
    executed (.subl 2 0 1) (inExecute (-2147483648) 0) = (i32 2147483647, false) := by rfl
theorem test_movc_zero_sets_z : executed (.movc 2 0) (inExecute 1 1) = (0, true) := by rfl
theorem test_movc_needs_no_source :
    (landing (exec (.movc 1 (-1)) (inStage .decode))).e.sourceValue1 = 0 := by rfl
theorem test_cmp_equal : (executed (.cmp 0 1) (inExecute (-1) (-1))).2 = true := by rfl
theorem test_cmp_fallthrough_branches :
    (landing (exec (.cmp 0 1) { inExecute 5 5 with
      cfg := { Config.default with cmpFallthrough := true } })).redirect = true := by rfl
theorem test_load_reads_cell :
    (landing (exec (.load 2 1 4) (inMemory 14))).w.resultValue = 9 := by rfl
theorem test_load_address :
    (landing (exec (.load 2 1 (-11)) (inExecute 10 0))).m.memoryAddress = i32 (-1) := by rfl
theorem test_store_writes_cell :
    (landing (exec (.store 1 2 4) (inMemory 4095))).dmem = ⟨[(14, 9), (4095, 10)]⟩ := by rfl
theorem test_store_past_the_end :
    (landing (exec (.store 1 2 4) (inMemory 4096))).status =
      .faulted .dataAddressOutOfRange 4096 := by rfl
theorem test_ldr_address :
    (landing (exec (.ldr 3 1 2) (inExecute 10 4))).m.memoryAddress = 14 := by rfl
theorem test_ldr_below_the_range :
    (landing (exec (.ldr 3 1 2) (inMemory (-1)))).status =
      .faulted .dataAddressOutOfRange (i32 (-1)) := by rfl
theorem test_str_address_wraps :
    (landing (exec (.str 0 1 2) (inExecute 2147483647 1))).m.memoryAddress =
      i32 (-2147483648) := by rfl
theorem test_str_of_zero_delists_the_cell :
    (landing (exec (.str 0 1 2) (inMemory 14))).dmem = ⟨[]⟩ := by rfl
theorem test_bz_taken :
    (landing (exec (.bz 8) { inExecute 0 0 with z := true })).pc = 4008 := by rfl
theorem test_bz_not_taken : (landing (exec (.bz 8) (inExecute 0 0))).pc = 4000 := by rfl
theorem test_bnz_taken_backward : (landing (exec (.bnz (-12)) (inExecute 0 0))).pc = 3988 := by rfl
theorem test_bnz_taken_flushes_decode :
    (landing (exec (.bnz (-12)) { inExecute 0 0 with
      d := lat .halt 4004 0 0 0 0 })).d.hasInstruction = false := by rfl
theorem test_halt_forwarded_disables_fetch :
    (landing (exec .halt (inStage .fetch))).f.hasInstruction = false := by rfl
theorem test_halt_retired_stops : (landing (exec .halt (inWriteback 0))).status = .halted := by rfl

/-! ### States for the statements -/

/-- Every stage at work: W an ADD to R3 with result 7, M a STORE to cell 14, E a CMP of equal
values, D an ADDL whose source is ready, F enabled. R3 is being written. -/
def flowing (kind : ScoreboardKind) : State :=
  { coreWith kind [.add 3 1 2, .store 3 1 4, .cmp 1 1, .addl 5 1 1, .movc 6 1, .halt] with
    x := ((Vector.replicate 16 0).set 1 10).set 2 4
    dmem := ⟨[(14, 9)]⟩
    scoreboard := (Scoreboard.reset kind).invalidate 3
    pc := 4016
    d := lat (.addl 5 1 1) 4012 0 0 0 0
    e := lat (.cmp 1 1) 4008 10 10 0 0
    m := lat (.store 3 1 4) 4004 10 0 0 14
    w := lat (.add 3 1 2) 4000 3 4 7 0 }

/-- Decode about to stall: its ADD reads R2, whose LDR is in Execute. -/
def stalling : State :=
  { coreWith .flag [.ldr 2 0 0, .add 3 2 2, .halt] with
    scoreboard := (Scoreboard.reset .flag).invalidate 2
    pc := 4008
    d := lat (.add 3 2 2) 4004 0 0 0 0
    e := lat (.ldr 2 0 0) 4000 0 0 0 0 }

/-- The second stall cycle: Fetch already holds its instruction. -/
def stalled : State := landing (step stalling)

/-- Decode stalled with Fetch held, and the writer of its source in Writeback. -/
def resuming : State := landing (step stalled)

/-- A HALT in Writeback and nothing behind it. -/
def halting (kind : ScoreboardKind) : State :=
  { coreWith kind [.halt] with
    f := { Latch.zero with hasInstruction := false }
    w := lat .halt 4000 0 0 0 0 }

/-- A taken BZ in Execute, with its shadow in Decode. -/
def branching : State :=
  { coreWith .flag [.bz 0, .halt] with
    z := true, pc := 4008, f := { Latch.zero with hasInstruction := false }
    d := lat .halt 4004 0 0 0 0
    e := lat (.bz 0) 4000 0 0 0 0 }

/-- A STORE at address `a` in Memory, a DIV in Execute, a poisoned latch in Decode. -/
def faulting (a sv1 sv2 : Int) (p : Poison) : State :=
  { coreWith .flag [.store 0 0 0, .div 1 0 0] with
    pc := 4012
    d := { Latch.zero with hasInstruction := true, pc := 4008, opcode := .invalid p }
    e := lat (.div 1 0 0) 4004 sv1 sv2 0 0
    m := lat (.store 0 0 0) 4000 0 0 0 a }

/-- A poisoned latch in Decode and nothing older. -/
def poisoned (p : Poison) : State :=
  { coreWith .flag [.halt] with
    d := { Latch.zero with hasInstruction := true, pc := 4004, opcode := .invalid p } }

/-- The state after Writeback, Memory, Execute and Decode of the cycle at `s`. -/
def afterW (s : State) : State := landing (writebackStage { s with stage := .writeback })
def afterM (s : State) : State := landing (memoryStage { afterW s with stage := .memory })
def afterE (s : State) : State := landing (executeStage { afterM s with stage := .execute })
def afterD (s : State) : State := landing (decodeStage { afterE s with stage := .decode })

theorem test_reset_is_construction : State.reset = State.init Config.default [] := rfl

/-! ### A concrete state for every statement with hypotheses, clause by clause -/

theorem witness_ConstructionResetsEveryElement :
    (State.init Config.default []).scoreboard = .flag (Vector.replicate 16 true) ∧
    (State.init { Config.default with scoreboardKind := .counter } []).scoreboard =
      .counter (Vector.replicate 16 0) := ⟨rfl, rfl⟩

theorem witness_ConstructionAdmitsWellFormedPrograms :
    Config.default.wf 1 = true ∧
    construct Config.default [encode .halt] =
      .ok (State.init Config.default [Record.ofInstr .halt "HALT"]) := ⟨rfl, rfl⟩

theorem witness_DecoderNamesWhatIsWrong :
    decode ⟨.unknown "NOP", none, none, none, none, ""⟩ = .error (.unknownOpcode "NOP") ∧
    decode ⟨.named .add, none, some 0, some 0, none, ""⟩ = .error (.missingField .rd) ∧
    decode ⟨.named .add, some 15, none, some 0, none, ""⟩ = .error (.missingField .rs1) ∧
    decode ⟨.named .add, some 0, some 15, none, none, ""⟩ = .error (.missingField .rs2) ∧
    decode ⟨.named .bnz, none, none, none, none, ""⟩ = .error (.missingField .imm) ∧
    RawRecord.wf ⟨.named .add, none, some 0, some 0, none, ""⟩ = false ∧
    decode ⟨.named .movc, some (-1), none, none, some 0, ""⟩ =
      .error (.registerOutOfRange .rd (-1)) ∧
    decode ⟨.named .add, some 0, some 16, some 0, none, ""⟩ =
      .error (.registerOutOfRange .rs1 16) := ⟨rfl, rfl, rfl, rfl, rfl, rfl, rfl, rfl⟩

/-- Decode with R2 not valid. -/
def notReady : State :=
  { inStage .decode with scoreboard := (Scoreboard.reset .flag).invalidate 2 }

/-- The stage premises of every statement about an instruction in each stage, and both premises of
its Decode clause: all sources ready, and one not ready. -/
theorem witness_EveryStage :
    (inStage .fetch).stage = .fetch ∧ (inStage .decode).stage = .decode ∧
    (inStage .execute).stage = .execute ∧ (inStage .memory).stage = .memory ∧
    (inStage .writeback).stage = .writeback ∧
    (∀ r : Reg, (inStage .decode).scoreboard.ready r = true) ∧
    notReady.stage = .decode ∧ notReady.scoreboard.ready 2 = false := by decide

theorem witness_AddSubMulRunInEveryStage :
    isNext (exec (.add 3 1 2) (inStage .decode)) = true ∧
    (landing (exec (.add 3 1 2) (inStage .decode))).e.sourceValue1 = 10 ∧
    (landing (exec (.add 3 1 2) notReady)).dIsStalled = true ∧
    (landing (exec (.mul 3 1 2) (inWriteback 40))).x[3] = 40 := ⟨rfl, rfl, rfl, rfl⟩

theorem witness_AndOrXorRunInEveryStage :
    (landing (exec (.and 3 1 2) (inStage .decode))).e.sourceValue2 = 4 ∧
    (landing (exec (.or 3 1 2) notReady)).fIsStalled = true ∧
    (landing (exec (.xor 3 1 2) (inWriteback 14))).x[3] = 14 := ⟨rfl, rfl, rfl⟩

theorem witness_DivRunsOrFaults :
    (inExecute 7 0).e.sourceValue2.toInt = 0 ∧
    (inExecute (-2147483648) (-1)).e.sourceValue1.toInt = -2 ^ 31 ∧
    (inExecute (-2147483648) (-1)).e.sourceValue2.toInt = -1 ∧
    (inExecute (-2147483648) 1).e.sourceValue2.toInt = 1 := ⟨rfl, rfl, rfl, rfl⟩

theorem witness_AddlSublRunInEveryStage :
    (landing (exec (.addl 3 2 1) notReady)).dIsStalled = true ∧
    (landing (exec (.subl 3 2 1) (inStage .decode))).e.sourceValue1 = 4 ∧
    executed (.addl 3 2 1) (inExecute 2147483647 0) = (i32 (-2147483648), false) :=
  ⟨rfl, rfl, rfl⟩

theorem witness_MovcRunsInEveryStage :
    (landing (exec (.movc 2 5) notReady)).dIsStalled = false ∧
    (landing (exec (.movc 2 5) (inStage .decode))).scoreboard.ready 2 = false := ⟨rfl, rfl⟩

theorem witness_CmpRunsInEveryStage :
    (inExecute 5 6).e.sourceValue1 ≠ (inExecute 5 6).e.sourceValue2 ∧
    (inExecute 5 5).e.sourceValue1 = (inExecute 5 5).e.sourceValue2 ∧
    (inExecute 5 5).cfg.cmpFallthrough = false ∧
    ({ inExecute 5 5 with cfg := { Config.default with cmpFallthrough := true } } :
      State).cfg.cmpFallthrough = true := by decide

/-- A data address at each end of the range, and next to it. -/
theorem witness_MemoryClauses :
    (inMemory 0).stage = .memory ∧ (inMemory 0).dmem.wf ∧ (inMemory 0).cfg.dmemSize = 4096 ∧
    (inMemory 0).m.memoryAddress.toInt = 0 ∧ (inMemory 4095).m.memoryAddress.toInt = 4095 ∧
    (inMemory (-1)).m.memoryAddress.toInt = -1 ∧
    (inMemory 4096).m.memoryAddress.toInt = 4096 := by decide

theorem witness_LoadsRunInEveryStage :
    isNext (exec (.load 2 1 4) (inMemory 0)) = true ∧
    isNext (exec (.ldr 2 1 4) (inMemory 4095)) = true ∧
    (landing (exec (.load 2 1 4) (inMemory (-1)))).status =
      .faulted .dataAddressOutOfRange (i32 (-1)) ∧
    (landing (exec (.ldr 2 1 4) (inMemory 4096))).status =
      .faulted .dataAddressOutOfRange 4096 := ⟨rfl, rfl, rfl, rfl⟩

theorem witness_StoresRunInEveryStage :
    (landing (exec (.store 1 2 4) (inMemory 0))).dmem.read 0 = 10 ∧
    (landing (exec (.str 1 2 3) (inMemory 4095))).dmem.read 4095 = 10 ∧
    (landing (exec (.str 1 2 3) (inMemory 4096))).status =
      .faulted .dataAddressOutOfRange 4096 ∧
    (landing (exec (.store 1 2 4) (inMemory (-1)))).status =
      .faulted .dataAddressOutOfRange (i32 (-1)) := ⟨rfl, rfl, rfl, rfl⟩

theorem witness_BranchesRunInEveryStage :
    (inExecute 0 0).stage = .execute ∧ (inExecute 0 0).z = false ∧
    ({ inExecute 0 0 with z := true } : State).z = true ∧
    (landing (exec (.bnz 8) { inExecute 0 0 with z := true })).redirect = false :=
  ⟨rfl, rfl, rfl, rfl⟩

theorem witness_HaltRunsInEveryStage :
    (landing (exec .halt (inStage .fetch))).d.hasInstruction = true ∧
    (landing (exec .halt (inExecute 0 0))).m.hasInstruction = true ∧
    (landing (exec .halt (inWriteback 0))).clock = 6 := ⟨rfl, rfl, rfl⟩

theorem witness_HazardTableGovernsEveryInstruction :
    (Instr.store 1 2 4).storeData = some 1 ∧ (Instr.add 3 1 2).storeData = none ∧
    (Instr.cmp 1 2).dest = none ∧ (Instr.cmp 1 2).writesZ = true ∧
    (Instr.add 3 1 2).dest = some 3 ∧ (Instr.add 3 1 2).writesZ = true ∧
    (Instr.addl 3 1 2).writesZ = false ∧ (inExecute 7 2).status = .running ∧
    (landing (exec (.add 3 1 2) (inExecute 7 2))).status = .running := by decide

/-- Decode of an instruction alone in the pipeline, with its registers. -/
def alone (i : Instr) (r1 : Int) : State :=
  { inStage .decode with
    x := ((Vector.replicate 16 0).set 1 (i32 r1)).set 2 4
    d := lat i 4000 0 0 0 0 }

theorem witness_InstructionAloneHasItsSequentialEffect :
    (alone (.ldr 3 1 2) 10).status = .running ∧ (alone (.ldr 3 1 2) 10).d.holds (.ldr 3 1 2) ∧
    (alone (.ldr 3 1 2) 10).sourceReady (some 1) = true ∧
    (alone (.ldr 3 1 2) 10).sourceReady (some 2) = true := by decide

theorem witness_InstructionAlone_each_outcome :
    (landing (throughPipeline (.ldr 3 1 2) (alone (.ldr 3 1 2) 10))).x[3] = 9 ∧
    (landing (throughPipeline .halt (alone .halt 0))).status = .halted ∧
    (landing (throughPipeline (.ldr 3 1 2) (alone (.ldr 3 1 2) 4092))).status =
      .faulted .dataAddressOutOfRange 4096 := ⟨rfl, rfl, rfl⟩

theorem witness_ScoreboardOperationsByKind :
    (Scoreboard.counter (Vector.replicate 16 1)).ready 15 = false ∧
    ((Scoreboard.counter (Vector.replicate 16 1)).restore 15).ready 15 = true ∧
    ((Scoreboard.flag (Vector.replicate 16 true)).invalidate 0).ready 0 = false ∧
    ((Scoreboard.flag (Vector.replicate 16 true)).invalidate 0).ready 1 = true := by decide

/-- Each clause of `Load(a)` at its boundary, for a store of two instructions at 4000. -/
theorem witness_LoadReadsTheInstructionStore :
    let s := coreWith .flag [.movc 1 7, .halt]
    (s.loadedLatch 4001).opcode = .invalid .fetchMisaligned ∧
    (s.loadedLatch 3996).opcode = .invalid .fetchOutOfRange ∧
    (s.loadedLatch 4008).opcode = .invalid .fetchOutOfRange ∧
    (s.loadedLatch 4000).instr = some (.movc 1 7) ∧
    (s.loadedLatch 4004).instr = some .halt := by decide

/-- The Fetch stage of the flowing core with its control bits set so. -/
def fetching (redirect live stall held : Bool) : State :=
  { flowing .flag with
    stage := .fetch, redirect := redirect, f := { Latch.zero with hasInstruction := live }
    fIsStalled := stall, fHeld := held }

theorem witness_FetchHasItsFiveCases :
    (landing (fetchStage (fetching true true false false))).redirect = false ∧
    (landing (fetchStage (fetching false true true false))).fHeld = true ∧
    (landing (fetchStage (fetching false true false false))).d.instr = some (.movc 6 1) ∧
    (landing (fetchStage (fetching false false false true))).d.instr = some (.add 0 0 0) ∧
    (landing (fetchStage (fetching false false true false))).pc = 4016 ∧
    (landing (fetchStage (fetching false false false false))).pc = 4016 :=
  ⟨rfl, rfl, rfl, rfl, rfl, rfl⟩

theorem witness_StepRunsTheDecodedInstructions :
    EvaluatesCycle (flowing .flag) ∧ (flowing .flag).w.holds (.add 3 1 2) ∧
    (flowing .flag).m.holds (.store 3 1 4) ∧ (flowing .flag).e.holds (.cmp 1 1) ∧
    (flowing .flag).d.holds (.addl 5 1 1) ∧ (flowing .flag).redirect = false ∧
    (flowing .flag).f.hasInstruction = true ∧ (flowing .flag).fIsStalled = false ∧
    (flowing .flag).fetchRecord 4016 = .ok (Record.ofInstr (.movc 6 1) "MOVC") ∧
    (fetching false false false true).f.instr = some (.add 0 0 0) :=
  ⟨by decide, by decide, by decide, by decide, by decide, rfl, rfl, rfl, rfl, rfl⟩

theorem witness_FirstCycleFetchesInstructionZero :
    [Record.ofInstr (.movc 1 7) "MOVC"][0]? = some (Record.ofInstr (.movc 1 7) "MOVC") ∧
    Config.default.maxCycles ≠ 0 := by decide

/-- The flowing core under either scoreboard meets every invariant and takes a step: the premises
of the statements about one step. -/
theorem witness_flowing_steps :
    step (flowing .flag) = .next (landing (step (flowing .flag))) ∧
    step (flowing .counter) = .next (landing (step (flowing .counter))) :=
  ⟨next_landing rfl, next_landing rfl⟩

theorem witness_StepKeepsControlBits :
    ControlBits (flowing .flag) ∧ step (flowing .flag) = .next (landing (step (flowing .flag))) :=
  ⟨by decide, next_landing rfl⟩
theorem witness_StepKeepsDecodedPastDecode :
    DecodedPastDecode (flowing .flag) ∧
    step (flowing .flag) = .next (landing (step (flowing .flag))) := ⟨by decide, next_landing rfl⟩
theorem witness_StepKeepsNothingBehindHalt :
    NothingBehindHalt (flowing .flag) ∧ ControlBits (halting .flag) ∧
    NothingBehindHalt (halting .flag) ∧ (halting .flag).w.holdsHalt ∧
    step (halting .flag) = .next (landing (step (halting .flag))) :=
  ⟨by decide, by decide, by decide, by decide, next_landing rfl⟩
theorem witness_StepKeepsMemoryCanonical :
    MemoryOk (flowing .flag) ∧ step (flowing .flag) = .next (landing (step (flowing .flag))) :=
  ⟨by decide, next_landing rfl⟩
theorem witness_StepKeepsCountersAndKind :
    CountersBounded (flowing .flag) ∧ KindAsConfigured (flowing .flag) ∧
    KindAsConfigured (flowing .counter) ∧
    step (flowing .flag) = .next (landing (step (flowing .flag))) :=
  ⟨by decide, by decide, by decide, next_landing rfl⟩

theorem witness_StepKeepsWriterCounts : CountsWriters (flowing .counter) ∧
    step (flowing .counter) = .next (landing (step (flowing .counter))) := by
  refine ⟨fun pend h => ?_, next_landing rfl⟩
  have e : Scoreboard.counter ((Vector.replicate 16 0).set 3 1) = .counter pend := h
  cases e
  decide

theorem witness_StepKeepsInvalidHasWriter : InvalidHasWriter (flowing .flag) ∧
    step (flowing .flag) = .next (landing (step (flowing .flag))) := by
  refine ⟨fun valid h => ?_, next_landing rfl⟩
  have e : Scoreboard.flag ((Vector.replicate 16 true).set 3 false) = .flag valid := h
  cases e
  decide

/-- The flowing core's step writes R3 by the ADD, cell 14 by the STORE and Z by the CMP, and moves
the PC on. -/
theorem witness_OnlyTheirWritersWrite :
    let s := flowing .flag
    let t := landing (step s)
    s.w.dest = some 3 ∧ t.reg 3 = 7 ∧ s.reg 3 = 0 ∧
    t.dmem.read 14 = 7 ∧ s.dmem.read 14 = 9 ∧ t.z = true ∧ s.z = false ∧ t.pc = 4020 := by
  decide

theorem witness_OnlyWritebackWritesRegisters :
    step (flowing .flag) = .next (landing (step (flowing .flag))) ∧
    (landing (step (flowing .flag))).reg 3 ≠ (flowing .flag).reg 3 :=
  ⟨next_landing rfl, by decide⟩

theorem witness_OnlyStoresWriteDataMemory :
    MemoryOk (flowing .flag) ∧ step (flowing .flag) = .next (landing (step (flowing .flag))) ∧
    (flowing .flag).m.holds (.store 3 1 4) ∧ (flowing .flag).m.memoryAddress.toInt = 14 :=
  ⟨by decide, next_landing rfl, by decide, rfl⟩

theorem witness_OnlyZWritersChangeZ :
    step (flowing .flag) = .next (landing (step (flowing .flag))) ∧
    (landing (step (flowing .flag))).z ≠ (flowing .flag).z := ⟨next_landing rfl, by decide⟩

theorem witness_StoreAndConfigurationNeverChange :
    step (flowing .counter) = .next (landing (step (flowing .counter))) := next_landing rfl

theorem witness_StepsNeverEndOutsideTheSpec :
    DecodedPastDecode (poisoned .fetchOutOfRange) ∧ DecodedPastDecode (flowing .counter) := by
  decide

theorem witness_PcMovesByForwardOrTakenBranch :
    step branching = .next (landing (step branching)) ∧ (landing (step branching)).pc = 4000 ∧
    (landing (step branching)).d.hasInstruction = false ∧ branching.e.TakesBranch branching :=
  ⟨next_landing rfl, rfl, rfl, .inl ⟨0, by decide, rfl⟩⟩

theorem witness_FinalStatesAndBudgetStop :
    (landing (step (halting .flag))).status = .halted ∧
    ({ flowing .flag with clock := 1000 } : State).clock = (flowing .flag).cfg.maxCycles ∧
    (flowing .flag).status = .running ∧
    (landing (step { flowing .flag with clock := 1000 })).status = .budgetExhausted :=
  ⟨rfl, rfl, rfl, rfl⟩

/-- A cycle that goes on, one that halts and one that faults, each counted. -/
theorem witness_CyclesAndRetirementsAreCounted :
    EvaluatesCycle (flowing .flag) ∧ EvaluatesCycle (halting .flag) ∧
    EvaluatesCycle (poisoned .fetchMisaligned) ∧ (landing (step (flowing .flag))).clock = 6 ∧
    (landing (step (halting .flag))).insnCompleted = 2 ∧
    (landing (step (poisoned .fetchMisaligned))).clock = 6 := by decide

theorem witness_HaltStopsBeforeTheOtherStages :
    EvaluatesCycle (halting .flag) ∧ (halting .flag).w.holdsHalt := by decide

/-! The stages before the one a clause is about, each left running. -/

theorem witness_FaultEndsTheCycleWhereRaised_memory :
    let s := faulting (-1) 7 0 .fetchOutOfRange
    EvaluatesCycle s ∧ isNext (writebackStage { s with stage := .writeback }) = true ∧
    (afterW s).status = .running ∧ (afterW s).m.holds (.store 0 0 0) ∧
    (afterW s).cellIndex (afterW s).m.memoryAddress = none := by decide

theorem witness_FaultEndsTheCycleWhereRaised_execute :
    let s := faulting 14 7 0 .fetchOutOfRange
    EvaluatesCycle s ∧ (afterW s).status = .running ∧
    isNext (memoryStage { afterW s with stage := .memory }) = true ∧
    (afterM s).status = .running ∧ (afterM s).e.holds (.div 1 0 0) := by decide

theorem witness_FaultEndsTheCycleWhereRaised_execute_kind :
    divWord (i32 7) (i32 0) = .error .divideByZero ∧
    divWord (i32 (-2147483648)) (i32 (-1)) = .error .divideOverflow := ⟨rfl, rfl⟩

theorem witness_FaultEndsTheCycleWhereRaised_decode :
    let s := poisoned .fetchMisaligned
    EvaluatesCycle s ∧ (afterW s).status = .running ∧ (afterM s).status = .running ∧
    isNext (executeStage { afterM s with stage := .execute }) = true ∧
    (afterE s).status = .running ∧ (afterE s).d.hasInstruction = true ∧
    (afterE s).d.opcode = .invalid .fetchMisaligned := by decide

theorem witness_FaultsHaveTheirCauses :
    (landing (step (faulting 14 7 0 .fetchOutOfRange))).status = .faulted .divideByZero 4004 ∧
    (landing (step (faulting 0 (-2147483648) (-1) .fetchOutOfRange))).status =
      .faulted .divideOverflow 4004 ∧
    (landing (step (poisoned .fetchOutOfRange))).status = .faulted .fetchOutOfRange 4004 ∧
    (landing (step (poisoned .fetchMisaligned))).status = .faulted .fetchMisaligned 4004 ∧
    (landing (step (faulting 4096 7 0 .fetchOutOfRange))).status =
      .faulted .dataAddressOutOfRange 4096 := ⟨rfl, rfl, rfl, rfl, rfl⟩

theorem witness_TheOldestFaultIsReported :
    let s := faulting (-1) 7 0 .fetchOutOfRange
    let s' := { s with m := Latch.zero }
    EvaluatesCycle s ∧ ¬s.w.holdsHalt ∧ s.m.holds (.store 0 0 0) ∧
    s.cellIndex s.m.memoryAddress = none ∧ isNext (step s) = true ∧
    s'.m.hasInstruction = false ∧ s'.e.holds (.div 1 0 0) ∧ s'.d.hasInstruction = true ∧
    s'.d.opcode = .invalid .fetchOutOfRange ∧ isNext (step s') = true := by decide

theorem witness_TakenBranchFlushesAndSkipsFetch :
    EvaluatesCycle branching ∧
    isNext (writebackStage { branching with stage := .writeback }) = true ∧
    (afterW branching).status = .running ∧
    isNext (memoryStage { afterW branching with stage := .memory }) = true ∧
    (afterM branching).status = .running ∧ (afterM branching).e.TakesBranch (afterM branching) :=
  ⟨by decide, rfl, rfl, rfl, rfl, .inl ⟨0, by decide, rfl⟩⟩

theorem witness_TakenBranchFlushesAndSkipsFetch_bnz :
    let s := { branching with z := false, e := lat (.bnz 0) 4000 0 0 0 0 }
    EvaluatesCycle s ∧ (afterW s).status = .running ∧ (afterM s).status = .running ∧
    (afterM s).e.TakesBranch (afterM s) :=
  ⟨by decide, rfl, rfl, .inr (.inl ⟨0, by decide, rfl⟩)⟩

/-- A CMP of equal values in Execute under `CMP_FALLTHROUGH`. -/
def comparing : State :=
  { branching with
    cfg := { Config.default with cmpFallthrough := true }
    z := false
    e := lat (.cmp 1 1) 4000 5 5 0 0 }

theorem witness_TakenBranchFlushesAndSkipsFetch_cmp :
    EvaluatesCycle comparing ∧ (afterW comparing).status = .running ∧
    (afterM comparing).status = .running ∧ (afterM comparing).e.TakesBranch (afterM comparing) ∧
    (landing (step comparing)).z = true ∧ (landing (step comparing)).pc = 4000 :=
  ⟨by decide, rfl, rfl, .inr (.inr ⟨1, 1, by decide, rfl, rfl⟩), rfl, rfl⟩

/-- The first cycle of a stall finds Fetch enabled, the second finds it holding. -/
theorem witness_StallHoldsDecodeAndFetch :
    let p (s : State) : Prop := EvaluatesCycle s ∧ (afterW s).status = .running ∧
      (afterM s).status = .running ∧
      isNext (executeStage { afterM s with stage := .execute }) = true ∧
      (afterE s).status = .running ∧ (afterE s).redirect = false ∧
      (afterE s).d.holds (.add 3 2 2) ∧ (afterE s).scoreboard.ready 2 = false
    p stalling ∧ (afterE stalling).f.hasInstruction = true ∧
    p stalled ∧ (afterE stalled).f.hasInstruction = false := by decide

theorem witness_IssueResumesTheHeldFetch :
    EvaluatesCycle resuming ∧ ControlBits resuming ∧ (afterW resuming).status = .running ∧
    (afterM resuming).status = .running ∧ (afterE resuming).status = .running ∧
    resuming.dIsStalled = true ∧ resuming.fHeld = true ∧ resuming.d.holds (.add 3 2 2) ∧
    (afterE resuming).scoreboard.ready 2 = true ∧ isNext (step resuming) = true := by decide

/-- The same in a cycle that ends in an Execute fault: Memory has copied. -/
theorem witness_NoLiveLatchIsOverwritten_fault :
    let s := faulting 14 7 0 .fetchOutOfRange
    ControlBits s ∧ EvaluatesCycle s ∧ (afterW s).status = .running ∧
    isNext (memoryStage { afterW s with stage := .memory }) = true ∧
    (afterM s).status = .running ∧ (afterM s).w.hasInstruction = true ∧
    (landing (step s)).status = .faulted .divideByZero 4004 := by decide

theorem witness_NoLiveLatchIsOverwritten :
    let s := flowing .flag
    ControlBits s ∧ EvaluatesCycle s ∧ (afterW s).status = .running ∧
    (afterM s).status = .running ∧ (afterE s).status = .running ∧
    isNext (decodeStage { afterE s with stage := .decode }) = true ∧
    (afterD s).status = .running ∧
    isNext (fetchStage { afterD s with stage := .fetch }) = true := by decide

theorem witness_EveryRunEndsWithinTheBudget :
    DecodedPastDecode (flowing .flag) ∧ CountersBounded (flowing .flag) := by decide

theorem witness_HaltLeavesEveryRegisterValid :
    NothingBehindHalt (halting .flag) ∧ (halting .flag).status = .running ∧
    isNext (step (halting .flag)) = true ∧ (landing (step (halting .flag))).status = .halted := by
  decide

theorem witness_HaltLeavesEveryRegisterValid_scoreboards :
    CountsWriters (halting .counter) ∧ InvalidHasWriter (halting .counter) ∧
    CountsWriters (halting .flag) ∧ InvalidHasWriter (halting .flag) := by
  refine ⟨fun pend h => ?_, fun valid h => ?_, fun pend h => ?_, fun valid h => ?_⟩
  · have e : Scoreboard.counter (Vector.replicate 16 0) = .counter pend := h
    cases e
    decide
  · cases h
  · cases h
  · have e : Scoreboard.flag (Vector.replicate 16 true) = .flag valid := h
    cases e
    decide

/-- A stall of the full two cycles, from a state with every invariant the statement asks for. -/
theorem witness_StallsLastAtMostTwoCycles :
    ControlBits stalling ∧ stalled.dIsStalled = true ∧ resuming.dIsStalled = true ∧
    isNext (step stalling) = true ∧ isNext (step stalled) = true ∧
    isNext (step resuming) = true ∧ (landing (step resuming)).status = .running ∧
    (landing (step resuming)).dIsStalled = false := by decide

theorem witness_StallsLastAtMostTwoCycles_scoreboards :
    CountsWriters stalling ∧ InvalidHasWriter stalling := by
  refine ⟨fun pend h => ?_, fun valid h => ?_⟩
  · cases h
  · have e : Scoreboard.flag ((Vector.replicate 16 true).set 2 false) = .flag valid := h
    cases e
    decide

/-- The program HALT, constructed with the Counter scoreboard, halts in five cycles. -/
theorem witness_PipelineEqualsSequentialMachine :
    let cfg := { Config.default with scoreboardKind := .counter }
    let s := State.init cfg [Record.ofInstr .halt "HALT"]
    cfg.scoreboardKind = .counter ∧ construct cfg [encode .halt] = .ok s ∧
    isNext (runSteps 5 s) = true ∧ (landing (runSteps 5 s)).status = .halted :=
  ⟨rfl, rfl, rfl, rfl⟩

theorem witness_StepKeepsLatchesFromStore : LatchesFromStore (flowing .flag) ∧
    step (flowing .flag) = .next (landing (step (flowing .flag))) := by
  refine ⟨?_, next_landing rfl⟩
  refine ⟨fun _ => ?_, fun _ => ?_, fun _ => ?_, fun _ => ?_, fun h => by cases h⟩ <;>
    exact And.intro rfl rfl

/-- The same program under the default configuration, for the time it takes. -/
theorem witness_HaltedRunsTakeTheirCycles :
    let s := State.init Config.default [Record.ofInstr .halt "HALT"]
    construct Config.default [encode .halt] = .ok s ∧ isNext (runSteps 5 s) = true ∧
    (landing (runSteps 5 s)).status = .halted ∧ (landing (runSteps 5 s)).clock = 5 ∧
    stallsIn stalling = true ∧ redirectsIn branching = true :=
  ⟨rfl, rfl, rfl, rfl, rfl, rfl⟩

/-- Two states that differ only in a latch that is not live. -/
theorem witness_DeadLatchesAreNeverRead :
    let s := halting .flag
    let s' := { s with e := { lat (.add 1 2 3) 4000 1 2 3 4 with hasInstruction := false } }
    s ≠ s' ∧ s.scrub = s'.scrub := by decide

/-- What is seen of the flowing cycle, of a taken branch's and of a halting one. -/
theorem witness_TraceShowsEveryEvaluatedStage :
    cycleTrace (flowing .flag) =
      [⟨.writeback, some (4000, "ADD")⟩, ⟨.memory, some (4004, "STORE")⟩,
        ⟨.execute, some (4008, "CMP")⟩, ⟨.decode, some (4012, "ADDL")⟩, ⟨.fetch, some (0, "")⟩] ∧
    (landing (step (flowing .flag))).status = .running ∧
    ¬(flowing .flag).e.TakesBranch (flowing .flag) ∧ branching.e.TakesBranch branching ∧
    (landing (step branching)).status = .running ∧
    (landing (step (halting .flag))).status = .halted ∧
    ¬EvaluatesCycle { flowing .flag with clock := 1000 } := by
  refine ⟨rfl, rfl, ?_, .inl ⟨0, by decide, rfl⟩, rfl, rfl, by decide⟩
  rintro (⟨_, _, h⟩ | ⟨_, ⟨_, h⟩, _⟩ | ⟨_, _, _, h, _⟩) <;> cases h

/-- A cycle that faults in each of the three stages, and how far its trace goes. -/
theorem witness_TraceShowsEveryEvaluatedStage_faults :
    (landing (step (faulting (-1) 7 0 .fetchOutOfRange))).status =
      .faulted .dataAddressOutOfRange (i32 (-1)) ∧
    (cycleTrace (faulting (-1) 7 0 .fetchOutOfRange)).length = 2 ∧
    (landing (step (faulting 14 7 0 .fetchOutOfRange))).status = .faulted .divideByZero 4004 ∧
    (cycleTrace (faulting 14 7 0 .fetchOutOfRange)).length = 3 ∧
    (landing (step (poisoned .fetchMisaligned))).status = .faulted .fetchMisaligned 4004 ∧
    (cycleTrace (poisoned .fetchMisaligned)).length = 4 := ⟨rfl, rfl, rfl, rfl, rfl, rfl⟩

end Sys2Proof.Tests
end

/-!
PROOFS. The statements about the state (10_state.md): what a step keeps, what it may change, and what
it reads. First the layer they share: what a latch carries between the stages, the frame of each
stage, how the latches move on, and the rule that carries a property through a step.
-/

namespace Sys2Proof.Machine

section Latches

/-! ### What a latch carries

From Decode to Writeback an instruction moves from latch to latch, and only the operands, result and
address computed for it change. -/

/-- The latch with the computed values set to 0: its control bit, address and record are left. -/
def Latch.withoutValues (l : Latch) : Latch :=
  { l with sourceValue1 := 0, sourceValue2 := 0, resultValue := 0, memoryAddress := 0 }

theorem Latch.hasInstruction_of_withoutValues {l l' : Latch}
    (h : l'.withoutValues = l.withoutValues) : l'.hasInstruction = l.hasInstruction :=
  congrArg (fun k => k.hasInstruction) h

theorem Latch.dest_of_withoutValues {l l' : Latch} (h : l'.withoutValues = l.withoutValues) :
    l'.dest = l.dest := by
  change l'.withoutValues.dest = l.withoutValues.dest
  rw [h]

theorem Latch.dest_of_dead {l : Latch} (h : l.hasInstruction = false) : l.dest = none := by
  simp [Latch.dest, h]

theorem Latch.dest_of_holds {l : Latch} {i : Instr} (h : l.holds i) : l.dest = i.dest := by
  simp [Latch.dest, h.1, h.2]

/-- A record's instruction has the record's opcode (R84). -/
@[simp] theorem opcode_instr_record (r : Record) : r.instr.opcode = r.opcode := by
  unfold Record.instr
  cases r.opcode <;> rfl

/-- A latch that holds `i` holds it in its record fields. -/
theorem Latch.recordOf_instr_of_holds {l : Latch} {i : Instr} (h : l.holds i) :
    (l.recordOf i.opcode).instr = i := by
  obtain ⟨-, hi⟩ := h
  cases ho : l.opcode with
  | known o =>
    rw [Latch.instr_of_known l o ho, Option.some.injEq] at hi
    subst hi
    rw [opcode_instr_record]
    rfl
  | invalid p => simp [Latch.instr_of_invalid l p ho] at hi

end Latches

section Rule

/-! ### Carrying a property through a step -/

/-- The property rests on neither the stage under evaluation, the run status nor the clock. -/
def IgnoresProgress (P : State → Prop) : Prop :=
  ∀ s stage status clock, P s → P { s with stage := stage, status := status, clock := clock }

/-- `Q` holds after a step if every stage keeps it, where each stage may use a side fact (`R0` to
`R4`) that the stages before it established. -/
theorem step_carries {Q R0 R1 R2 R3 R4 : State → Prop} (hQ : IgnoresProgress Q)
    (hwb : ∀ u v, Q u → R0 u → u.stage = .writeback → writebackStage u = .next v →
      Q v ∧ (v.status = .running → R1 { v with stage := .memory }))
    (hmem : ∀ u v, Q u → R1 u → u.stage = .memory → memoryStage u = .next v →
      Q v ∧ (v.status = .running → R2 { v with stage := .execute }))
    (hex : ∀ u v, Q u → R2 u → u.stage = .execute → executeStage u = .next v →
      Q v ∧ (v.status = .running → R3 { v with stage := .decode }))
    (hdec : ∀ u v, Q u → R3 u → u.stage = .decode → decodeStage u = .next v →
      Q v ∧ (v.status = .running → R4 { v with stage := .fetch }))
    (hfet : ∀ u v, Q u → R4 u → u.stage = .fetch → fetchStage u = .next v → Q v)
    {s t : State} (h0 : Q s) (hR0 : R0 { s with stage := .writeback })
    (h : step s = .next t) : Q t := by
  have stage : ∀ {u : State} st, Q u → Q { u with stage := st } :=
    fun {u} st hu => hQ u st u.status u.clock hu
  rcases step_cases h with ⟨-, rfl⟩ | ⟨-, -, rfl⟩ | ⟨⟨hrun, -⟩, hc⟩
  · exact h0
  · exact hQ s s.stage .budgetExhausted s.clock h0
  · obtain ⟨u, hu, rfl⟩ := cycle_rule
      (P0 := fun u => Q u ∧ R0 u) (P1 := fun u => Q u ∧ R1 u) (P2 := fun u => Q u ∧ R2 u)
      (P3 := fun u => Q u ∧ R3 u) (P4 := fun u => Q u ∧ R4 u) (P5 := Q) (Q := Q)
      (fun u v hu _ hs e => have ⟨q, r⟩ := hwb u v hu.1 hu.2 hs e
        ⟨fun hv => ⟨stage _ q, r hv⟩, fun _ => q⟩)
      (fun u v hu _ hs e => have ⟨q, r⟩ := hmem u v hu.1 hu.2 hs e
        ⟨fun hv => ⟨stage _ q, r hv⟩, fun _ => q⟩)
      (fun u v hu _ hs e => have ⟨q, r⟩ := hex u v hu.1 hu.2 hs e
        ⟨fun hv => ⟨stage _ q, r hv⟩, fun _ => q⟩)
      (fun u v hu _ hs e => have ⟨q, r⟩ := hdec u v hu.1 hu.2 hs e
        ⟨fun hv => ⟨stage _ q, r hv⟩, fun _ => q⟩)
      (fun u v hu _ hs e => have q := hfet u v hu.1 hu.2 hs e
        ⟨fun _ => q, fun _ => q⟩)
      (fun u hu _ => hQ u u.stage u.status (u.clock + 1) hu)
      ⟨stage _ h0, hR0⟩ hrun hc
    exact stage _ hu

/-- A property that every stage keeps is kept by every step. -/
theorem step_keeps {Q : State → Prop} (hQ : IgnoresProgress Q)
    (hwb : ∀ u v, Q u → u.stage = .writeback → writebackStage u = .next v → Q v)
    (hmem : ∀ u v, Q u → u.stage = .memory → memoryStage u = .next v → Q v)
    (hex : ∀ u v, Q u → u.stage = .execute → executeStage u = .next v → Q v)
    (hdec : ∀ u v, Q u → u.stage = .decode → decodeStage u = .next v → Q v)
    (hfet : ∀ u v, Q u → u.stage = .fetch → fetchStage u = .next v → Q v)
    {s t : State} (h0 : Q s) (h : step s = .next t) : Q t :=
  step_carries (R0 := fun _ => True) (R1 := fun _ => True) (R2 := fun _ => True)
    (R3 := fun _ => True) (R4 := fun _ => True) hQ
    (fun u v hu _ hs e => ⟨hwb u v hu hs e, fun _ => trivial⟩)
    (fun u v hu _ hs e => ⟨hmem u v hu hs e, fun _ => trivial⟩)
    (fun u v hu _ hs e => ⟨hex u v hu hs e, fun _ => trivial⟩)
    (fun u v hu _ hs e => ⟨hdec u v hu hs e, fun _ => trivial⟩)
    (fun u v hu _ hs e => hfet u v hu hs e) h0 trivial h

end Rule

section Frames

/-! ### The frame of each stage

The stage's next state is the old one but for the fields listed. -/

variable {s t : State}

theorem writebackStage_frame (hs : s.stage = .writeback) (h : writebackStage s = .next t) :
    t = { s with
      x := t.x, scoreboard := t.scoreboard, insnCompleted := t.insnCompleted, w := t.w
      status := t.status, clock := t.clock } := by
  rcases writebackStage_cases hs h with ⟨-, rfl⟩ | ⟨-, rfl⟩ | ⟨i, -, -, rfl⟩
  · rfl
  · rfl
  · cases i.dest <;> rfl

theorem memoryStage_frame (hs : s.stage = .memory) (h : memoryStage s = .next t) :
    t = { s with
      dmem := t.dmem, m := t.m, w := t.w, status := t.status, clock := t.clock } := by
  rcases memoryStage_cases hs h with ⟨-, rfl⟩ | ⟨i, -, ⟨-, rfl⟩ | ⟨k, -, -, -, rfl⟩ |
    ⟨k, r, -, -, rfl⟩ | ⟨-, -, rfl⟩⟩ <;> rfl

theorem executeStage_frame (hs : s.stage = .execute) (h : executeStage s = .next t) :
    t = { s with
      pc := t.pc, z := t.z, redirect := t.redirect, f := t.f, d := t.d, e := t.e, m := t.m
      status := t.status, clock := t.clock } := by
  rcases executeStage_cases hs h with ⟨-, rfl⟩ | ⟨i, -, ⟨v, a, z, -, rfl⟩ | ⟨target, z, -, rfl⟩ |
    ⟨k, -, -, rfl⟩⟩ <;> rfl

theorem decodeStage_frame (hs : s.stage = .decode) (h : decodeStage s = .next t) :
    t = { s with
      scoreboard := t.scoreboard, d := t.d, e := t.e, dIsStalled := t.dIsStalled
      fIsStalled := t.fIsStalled, status := t.status, clock := t.clock } := by
  rcases decodeStage_cases hs h with ⟨-, rfl⟩ | ⟨p, -, -, rfl⟩ | ⟨i, -, rfl⟩
  · rfl
  · rfl
  · rcases s.decodeWith_cases i.src1 i.src2 i.dest with ⟨-, e⟩ | ⟨-, e⟩ <;> rw [e]
    · cases i.dest <;> rfl
    · rfl

theorem fetchStage_frame (hs : s.stage = .fetch) (h : fetchStage s = .next t) :
    t = { s with
      pc := t.pc, redirect := t.redirect, f := t.f, fHeld := t.fHeld, d := t.d
      dIsStalled := t.dIsStalled } := by
  rcases fetchStage_cases hs h with ⟨-, rfl⟩ | ⟨-, -, -, rfl⟩ | ⟨-, -, -, rfl⟩ |
    ⟨-, -, -, -, rfl⟩ | ⟨-, -, -, rfl⟩
  · rfl
  · rfl
  · split <;> rfl
  · split <;> rfl
  · rfl

end Frames

section Moves

/-! ### How the latches move on -/

variable {s t : State}

/-- After Writeback its latch is not live (R121). -/
theorem writebackStage_w_dead (hs : s.stage = .writeback) (h : writebackStage s = .next t) :
    t.w.hasInstruction = false := by
  rcases writebackStage_cases hs h with ⟨hw, rfl⟩ | ⟨-, rfl⟩ | ⟨i, -, -, rfl⟩
  · exact hw
  · rfl
  · rfl

/-- Memory hands its instruction to Writeback, or raises a fault and moves no latch (R119, R254). -/
theorem memoryStage_moves (hs : s.stage = .memory) (h : memoryStage s = .next t) :
    (t.w.withoutValues = s.m.withoutValues ∧ t.m.hasInstruction = false) ∨
    (t.status ≠ .running ∧ t.m = s.m ∧ t.w = s.w) := by
  rcases memoryStage_cases hs h with ⟨-, rfl⟩ | ⟨i, -, ⟨-, rfl⟩ | ⟨k, -, -, -, rfl⟩ |
    ⟨k, r, -, -, rfl⟩ | ⟨-, -, rfl⟩⟩
  case inr.inr.inr.inr => exact .inr ⟨by simp, rfl, rfl⟩
  all_goals exact .inl ⟨rfl, rfl⟩

/-- Execute hands its instruction to Memory, or raises a fault and moves no latch (R116, R251,
R252). -/
theorem executeStage_moves (hs : s.stage = .execute) (h : executeStage s = .next t) :
    (t.m.withoutValues = s.e.withoutValues ∧ t.e.hasInstruction = false) ∨
    (t.status ≠ .running ∧ t.e = s.e ∧ t.m = s.m) := by
  rcases executeStage_cases hs h with ⟨-, rfl⟩ | ⟨i, -, ⟨v, a, z, -, rfl⟩ | ⟨target, z, -, rfl⟩ |
    ⟨k, -, -, rfl⟩⟩
  case inr.inr.inr => exact .inr ⟨by simp, rfl, rfl⟩
  all_goals exact .inl ⟨rfl, rfl⟩

/-- Execute leaves the Decode latch as it is or flushes it, and changes no more of the Fetch latch
than its control bit (R118). -/
theorem executeStage_d_f (hs : s.stage = .execute) (h : executeStage s = .next t) :
    (t.d = s.d ∧ t.f = s.f) ∨
    (t.d.hasInstruction = false ∧ t.f = { s.f with hasInstruction := true }) := by
  rcases executeStage_cases hs h with ⟨-, rfl⟩ | ⟨i, -, ⟨v, a, z, -, rfl⟩ | ⟨target, z, -, rfl⟩ |
    ⟨k, -, -, rfl⟩⟩
  case inr.inr.inl => exact .inr ⟨rfl, rfl⟩
  all_goals exact .inl ⟨rfl, rfl⟩

/-- Decode issues its instruction to Execute and invalidates the destination, or keeps both latches
and the scoreboard (R111 to R114). -/
theorem decodeStage_moves (hs : s.stage = .decode) (h : decodeStage s = .next t) :
    (t.e.withoutValues = s.d.withoutValues ∧ t.d.hasInstruction = false ∧
      t.scoreboard = s.d.dest.elim s.scoreboard s.scoreboard.invalidate) ∨
    (t.d = s.d ∧ t.e = s.e ∧ t.scoreboard = s.scoreboard) := by
  rcases decodeStage_cases hs h with ⟨-, rfl⟩ | ⟨p, -, -, rfl⟩ | ⟨i, hi, rfl⟩
  · exact .inr ⟨rfl, rfl, rfl⟩
  · exact .inr ⟨rfl, rfl, rfl⟩
  · rw [Latch.dest_of_holds hi]
    rcases s.decodeWith_cases i.src1 i.src2 i.dest with ⟨-, e⟩ | ⟨-, e⟩ <;> rw [e]
    · left
      cases i.dest <;> exact ⟨rfl, rfl, rfl⟩
    · exact .inr ⟨rfl, rfl, rfl⟩

/-- A flushed Decode latch leaves Decode nothing to do (R111). -/
theorem decodeStage_of_dead (hd : s.d.hasInstruction = false) : decodeStage s = .next s := by
  simp [decodeStage, hd]

/-- Fetch after a taken branch only clears the redirect flag (R104). -/
theorem fetchStage_of_redirect (hr : s.redirect = true) :
    fetchStage s = .next { s with redirect := false } := by
  simp [fetchStage, hr]

end Moves

section Writes

/-! ### What each stage writes -/

variable {s t : State}

/-- Writeback writes and restores the destination of its latch, and no other register (R120). -/
theorem writebackStage_writes (hs : s.stage = .writeback) (h : writebackStage s = .next t) :
    t.x = s.w.dest.elim s.x (fun rd => s.x.set rd s.w.resultValue) ∧
    t.scoreboard = s.w.dest.elim s.scoreboard s.scoreboard.restore := by
  rcases writebackStage_cases hs h with ⟨hw, rfl⟩ | ⟨hw, rfl⟩ | ⟨i, hw, -, rfl⟩
  · rw [Latch.dest_of_dead hw]
    exact ⟨rfl, rfl⟩
  · rw [Latch.dest_of_holds hw]
    exact ⟨rfl, rfl⟩
  · rw [Latch.dest_of_holds hw]
    cases i.dest <;> exact ⟨rfl, rfl⟩

/-- What a register holds once the live Writeback latch has written its destination (R120). -/
def State.regAfterWriteback (s : State) (r : Reg) : Word :=
  if s.w.dest = some r then s.w.resultValue else s.reg r

theorem writebackStage_reg (hs : s.stage = .writeback) (h : writebackStage s = .next t) (r : Reg) :
    t.reg r = s.regAfterWriteback r := by
  rw [State.reg, State.regAfterWriteback, (writebackStage_writes hs h).1]
  cases s.w.dest with
  | none => rfl
  | some rd => simp [Vector.getElem_set, State.reg, Fin.val_inj]

/-- Memory leaves data memory alone, or runs a store that writes one cell in range (R62, R119). -/
theorem memoryStage_dmem (hs : s.stage = .memory) (h : memoryStage s = .next t) :
    t.dmem = s.dmem ∨ ∃ i r k, s.m.holds i ∧ i.storeData = some r ∧
      s.cellIndex s.m.memoryAddress = some k ∧ t.dmem = s.dmem.write k (s.reg r) := by
  rcases memoryStage_cases hs h with ⟨-, rfl⟩ | ⟨i, hi, ⟨-, rfl⟩ | ⟨k, -, -, -, rfl⟩ |
    ⟨k, r, hr, hk, rfl⟩ | ⟨-, -, rfl⟩⟩
  case inr.inr.inr.inl => exact .inr ⟨i, r, k, hi, hr, hk, rfl⟩
  all_goals exact .inl rfl

/-- A write in range keeps what `MemoryOk` says. -/
theorem Memory.write_ok {mem : Memory} {n k : Nat} (v : Word)
    (h : mem.wf ∧ ∀ c ∈ mem.cells, c.1 < n) (hk : k < n) :
    (mem.write k v).wf ∧ ∀ c ∈ (mem.write k v).cells, c.1 < n :=
  ⟨mem.write_wf k v h.1, mem.write_indices k n v hk h.2⟩

/-- Execute leaves Z alone, or holds an instruction that writes Z (R117). -/
theorem executeStage_z (hs : s.stage = .execute) (h : executeStage s = .next t) :
    t.z = s.z ∨ ∃ i, s.e.holds i ∧ i.writesZ = true := by
  rcases executeStage_cases hs h with ⟨-, rfl⟩ | ⟨i, hi, ⟨v, a, z, hz, rfl⟩ |
    ⟨target, z, hz, rfl⟩ | ⟨k, -, -, rfl⟩⟩
  case inl | inr.inr.inr => exact .inl rfl
  all_goals exact hz.imp id fun hz => ⟨i, hi, hz⟩

/-- The PC, redirect flag and Decode latch after a branch, which is taken exactly on `c`. -/
theorem State.executeBranch_pc (s : State) (c : Bool) (imm : Word) :
    (s.executeBranch c imm).pc = s.pc ∨
    (c = true ∧ (s.executeBranch c imm).pc = s.e.pc + imm ∧
      (s.executeBranch c imm).redirect = true ∧
      (s.executeBranch c imm).d.hasInstruction = false) := by
  rcases s.executeBranch_cases c imm with ⟨hc, e⟩ | ⟨-, e⟩ <;> rw [e]
  · exact .inr ⟨hc, rfl, rfl, rfl⟩
  · exact .inl rfl

/-- The same for CMP, which branches on equality under the fallthrough parameter (R172). -/
theorem State.executeCompare_pc (s : State) :
    s.executeCompare.pc = s.pc ∨
    ((s.cfg.cmpFallthrough = true ∧ s.e.sourceValue1 = s.e.sourceValue2) ∧
      s.executeCompare.pc = s.e.pc + s.e.imm ∧ s.executeCompare.redirect = true ∧
      s.executeCompare.d.hasInstruction = false) := by
  rcases s.executeCompare_cases with ⟨hz, e⟩ | ⟨-, e⟩ <;> rw [e]
  · exact .inr ⟨by simpa using hz, rfl, rfl, rfl⟩
  · exact .inl rfl

/-- Execute leaves the PC alone, or takes a branch to its latch's `pc + imm`: it sets the redirect
flag and flushes Decode (R118, R230, R231, R172). -/
theorem executeStage_pc (hs : s.stage = .execute) (h : executeStage s = .next t) :
    t.pc = s.pc ∨ (s.e.TakesBranch s ∧ t.pc = s.e.pc + s.e.imm ∧ t.redirect = true ∧
      t.d.hasInstruction = false) := by
  unfold executeStage at h
  split at h
  · next hl =>
    split at h
    · next i hi =>
      have hh : s.e.holds i := ⟨hl, hi⟩
      have hrec := Latch.recordOf_instr_of_holds hh
      rw [exec_execute i s hs] at h
      cases h
      cases i with
      | bz imm =>
        obtain rfl : s.e.imm = imm := Instr.bz.inj hrec
        exact (s.executeBranch_pc s.z s.e.imm).imp id fun ⟨hz, hb⟩ => ⟨.inl ⟨_, hh, hz⟩, hb⟩
      | bnz imm =>
        obtain rfl : s.e.imm = imm := Instr.bnz.inj hrec
        exact (s.executeBranch_pc (!s.z) s.e.imm).imp id fun ⟨hz, hb⟩ =>
          ⟨.inr (.inl ⟨_, hh, by simpa using hz⟩), hb⟩
      | cmp rs1 rs2 =>
        exact s.executeCompare_pc.imp id fun ⟨hz, hb⟩ => ⟨.inr (.inr ⟨rs1, rs2, hh, hz⟩), hb⟩
      | div rd rs1 rs2 => dsimp only; split <;> exact .inl rfl
      | _ => exact .inl rfl
    · cases h
  · cases h; exact .inl rfl

/-- Fetch leaves the PC alone, or moves it on by 4 and makes the Decode latch live (R104 to R109). -/
theorem fetchStage_pc (hs : s.stage = .fetch) (h : fetchStage s = .next t) :
    t.pc = s.pc ∨ (t.pc = s.pc + 4 ∧ t.d.hasInstruction = true) := by
  rcases fetchStage_cases hs h with ⟨-, rfl⟩ | ⟨-, -, -, rfl⟩ | ⟨-, hf, -, rfl⟩ |
    ⟨-, -, -, -, rfl⟩ | ⟨-, -, -, rfl⟩
  · exact .inl rfl
  · exact .inl rfl
  · right
    split <;> simp [nextPc_eq, hf]
  · right
    split <;> simp [nextPc_eq]
  · exact .inl rfl

end Writes

section Writers

/-! ### Writers in flight -/

/-- Some live Execute, Memory or Writeback latch has destination `r`. -/
def State.HasWriter (s : State) (r : Reg) : Prop :=
  s.e.dest = some r ∨ s.m.dest = some r ∨ s.w.dest = some r

theorem State.inFlight_pos_iff (s : State) (r : Reg) : 0 < s.inFlight r ↔ s.HasWriter r := by
  simp [State.inFlight, State.HasWriter]

/-- Under Flag a register is valid exactly when it is ready (R123). -/
theorem invalidHasWriter_iff (s : State) : InvalidHasWriter s ↔
    (s.scoreboard.kind = .flag → ∀ r, s.scoreboard.ready r = false → s.HasWriter r) := by
  simp only [InvalidHasWriter, State.inFlight_pos_iff]
  cases s.scoreboard with
  | flag valid => simp [Scoreboard.kind, Scoreboard.ready]
  | counter pend => simp [Scoreboard.kind]

variable {s t : State}

/-- Under Flag a restored register is ready (R123). -/
theorem Scoreboard.restore_ready_of_flag {b : Scoreboard} (hb : b.kind = .flag) (r : Reg) :
    (b.restore r).ready r = true := by
  cases b with
  | flag valid => exact restore_ready_flag valid r
  | counter pend => cases hb

/-- Writeback retires a writer and makes its register valid. -/
theorem writebackStage_keeps_invalidHasWriter (hs : s.stage = .writeback)
    (h : writebackStage s = .next t) (hi : InvalidHasWriter s) : InvalidHasWriter t := by
  rw [invalidHasWriter_iff] at hi ⊢
  have hframe := writebackStage_frame hs h
  have he : t.e = s.e := by rw [hframe]
  have hm : t.m = s.m := by rw [hframe]
  rw [(writebackStage_writes hs h).2]
  intro hk r hr
  have hother : s.w.dest ≠ some r ∧ s.HasWriter r := by
    cases hw : s.w.dest with
    | none =>
      rw [hw] at hk hr
      exact ⟨nofun, hi hk r hr⟩
    | some rd =>
      simp only [hw, Option.elim_some, Scoreboard.restore_kind] at hk hr
      have hne : rd ≠ r := by
        rintro rfl
        rw [Scoreboard.restore_ready_of_flag hk] at hr
        cases hr
      rw [Scoreboard.restore_ready_other _ _ _ hne] at hr
      exact ⟨by simpa using hne, hi hk r hr⟩
  obtain ⟨hne, hw⟩ := hother
  rcases hw with hw | hw | hw
  · exact .inl (he ▸ hw)
  · exact .inr (.inl (hm ▸ hw))
  · exact absurd hw hne

/-- Memory moves its writer to Writeback, whose latch is empty. -/
theorem memoryStage_keeps_invalidHasWriter (hs : s.stage = .memory) (h : memoryStage s = .next t)
    (hw : s.w.hasInstruction = false) (hi : InvalidHasWriter s) : InvalidHasWriter t := by
  rw [invalidHasWriter_iff] at hi ⊢
  have hframe := memoryStage_frame hs h
  have he : t.e = s.e := by rw [hframe]
  have hb : t.scoreboard = s.scoreboard := by rw [hframe]
  rw [hb]
  intro hk r hr
  rcases memoryStage_moves hs h with ⟨hmoved, -⟩ | ⟨-, hm, hw'⟩
  · rcases hi hk r hr with hr | hr | hr
    · exact .inl (he ▸ hr)
    · exact .inr (.inr ((Latch.dest_of_withoutValues hmoved).trans hr))
    · rw [Latch.dest_of_dead hw] at hr
      cases hr
  · simpa only [State.HasWriter, he, hm, hw'] using hi hk r hr

/-- Execute moves its writer to Memory, whose latch is empty. -/
theorem executeStage_keeps_invalidHasWriter (hs : s.stage = .execute)
    (h : executeStage s = .next t) (hm : s.m.hasInstruction = false) (hi : InvalidHasWriter s) :
    InvalidHasWriter t := by
  rw [invalidHasWriter_iff] at hi ⊢
  have hframe := executeStage_frame hs h
  have hw : t.w = s.w := by rw [hframe]
  have hb : t.scoreboard = s.scoreboard := by rw [hframe]
  rw [hb]
  intro hk r hr
  rcases executeStage_moves hs h with ⟨hmoved, -⟩ | ⟨-, he, hm'⟩
  · rcases hi hk r hr with hr | hr | hr
    · exact .inr (.inl ((Latch.dest_of_withoutValues hmoved).trans hr))
    · rw [Latch.dest_of_dead hm] at hr
      cases hr
    · exact .inr (.inr (hw ▸ hr))
  · simpa only [State.HasWriter, he, hm', hw] using hi hk r hr

/-- Decode makes invalid only the destination of the writer it issues into an empty Execute latch. -/
theorem decodeStage_keeps_invalidHasWriter (hs : s.stage = .decode) (h : decodeStage s = .next t)
    (he : s.e.hasInstruction = false) (hi : InvalidHasWriter s) : InvalidHasWriter t := by
  rw [invalidHasWriter_iff] at hi ⊢
  have hframe := decodeStage_frame hs h
  have hm : t.m = s.m := by rw [hframe]
  have hw : t.w = s.w := by rw [hframe]
  rcases decodeStage_moves hs h with ⟨hmoved, -, hb⟩ | ⟨-, he', hb⟩ <;> rw [hb]
  · intro hk r hr
    by_cases hd : s.d.dest = some r
    · exact .inl ((Latch.dest_of_withoutValues hmoved).trans hd)
    · have hold : s.HasWriter r := by
        cases hdest : s.d.dest with
        | none =>
          rw [hdest] at hk hr
          exact hi hk r hr
        | some rd =>
          simp only [hdest, Option.elim_some, Scoreboard.invalidate_kind] at hk hr
          rw [Scoreboard.invalidate_ready_other _ _ _ (by simpa [hdest] using hd)] at hr
          exact hi hk r hr
      rcases hold with hr | hr | hr
      · rw [Latch.dest_of_dead he] at hr
        cases hr
      · exact .inr (.inl (hm ▸ hr))
      · exact .inr (.inr (hw ▸ hr))
  · intro hk r hr
    simpa only [State.HasWriter, he', hm, hw] using hi hk r hr

/-- Fetch touches neither the scoreboard nor a writer in flight. -/
theorem fetchStage_keeps_invalidHasWriter (hs : s.stage = .fetch) (h : fetchStage s = .next t)
    (hi : InvalidHasWriter s) : InvalidHasWriter t := by
  rw [fetchStage_frame hs h]
  exact hi

end Writers

/-- Settles O43: each stage keeps the invariant, because the latch it moves a writer into has been
emptied by the stage before. -/
theorem stepKeepsInvalidHasWriter : Obligations.StepKeepsInvalidHasWriter := by
  intro s t hi h
  refine step_carries (Q := InvalidHasWriter) (R0 := fun _ => True)
    (R1 := fun u => u.w.hasInstruction = false) (R2 := fun u => u.m.hasInstruction = false)
    (R3 := fun u => u.e.hasInstruction = false) (R4 := fun _ => True)
    (fun _ _ _ _ h => h) ?_ ?_ ?_ ?_ ?_ hi trivial h
  · intro u v hu _ hs e
    refine ⟨writebackStage_keeps_invalidHasWriter hs e hu, fun _ => ?_⟩
    exact writebackStage_w_dead (t := v) hs e
  · intro u v hu hw hs e
    refine ⟨memoryStage_keeps_invalidHasWriter hs e hw hu, fun hrun => ?_⟩
    rcases memoryStage_moves hs e with ⟨-, hm⟩ | ⟨hstop, -, -⟩
    · exact hm
    · exact absurd hrun hstop
  · intro u v hu hm hs e
    refine ⟨executeStage_keeps_invalidHasWriter hs e hm hu, fun hrun => ?_⟩
    rcases executeStage_moves hs e with ⟨-, he⟩ | ⟨hstop, -, -⟩
    · exact he
    · exact absurd hrun hstop
  · intro u v hu he hs e
    exact ⟨decodeStage_keeps_invalidHasWriter hs e he hu, fun _ => trivial⟩
  · intro u v hu _ hs e
    exact fetchStage_keeps_invalidHasWriter hs e hu

section FromStore

/-! ### Latches hold what the Instruction Store keeps -/

/-- A fetch reads the configuration and the Instruction Store only (R110). -/
theorem State.fetchRecord_congr {s t : State} (hcfg : t.cfg = s.cfg) (hst : t.istore = s.istore)
    (a : Word) : t.fetchRecord a = s.fetchRecord a := by
  simp only [State.fetchRecord, State.storeIndex, hcfg, hst]

/-- Whether a latch holds its address's record rests on neither its computed values nor its control
bit, nor on more of the state than what a fetch reads. -/
theorem Latch.fromStore_congr {l l' : Latch} {s t : State} (hcfg : t.cfg = s.cfg)
    (hst : t.istore = s.istore) (hl : l'.clear.withoutValues = l.clear.withoutValues)
    (h : l.FromStore s) : l'.FromStore t := by
  change l'.clear.withoutValues.FromStore t
  rw [hl, Latch.FromStore, State.fetchRecord_congr hcfg hst]
  exact h

/-- A live latch holds its address's record. -/
def Latch.LiveFromStore (l : Latch) (s : State) : Prop := l.hasInstruction = true → l.FromStore s

theorem Latch.liveFromStore_of_dead {l : Latch} {s : State} (h : l.hasInstruction = false) :
    l.LiveFromStore s := by
  simp [Latch.LiveFromStore, h]

theorem Latch.liveFromStore_congr {l l' : Latch} {s t : State} (hcfg : t.cfg = s.cfg)
    (hst : t.istore = s.istore) (hl : l'.withoutValues = l.withoutValues)
    (h : l.LiveFromStore s) : l'.LiveFromStore t := fun hlive =>
  fromStore_congr hcfg hst (congrArg Latch.clear hl)
    (h (hasInstruction_of_withoutValues hl ▸ hlive))

/-- `Load` leaves the record of the address it loads from (R110). -/
theorem State.loadedLatch_fromStore (s : State) : (s.loadedLatch s.pc).FromStore s := by
  rw [Latch.FromStore, State.loadedLatch_pc]
  unfold State.loadedLatch
  split <;> simp [Latch.recordOf, *]

variable {s t : State}

theorem memoryStage_keeps_latchesFromStore (hs : s.stage = .memory) (h : memoryStage s = .next t)
    (hi : LatchesFromStore s) : LatchesFromStore t := by
  obtain ⟨hd, he, hm, hw, hf⟩ := hi
  rcases memoryStage_moves hs h with ⟨hmoved, hdead⟩ | ⟨-, hm', hw'⟩ <;>
    rw [memoryStage_frame hs h]
  · exact ⟨hd, he, Latch.liveFromStore_of_dead hdead,
      Latch.liveFromStore_congr rfl rfl hmoved hm, hf⟩
  · rw [hm', hw']
    exact ⟨hd, he, hm, hw, hf⟩

theorem executeStage_keeps_latchesFromStore (hs : s.stage = .execute)
    (h : executeStage s = .next t) (hi : LatchesFromStore s) : LatchesFromStore t := by
  obtain ⟨hd, he, hm, hw, hf⟩ := hi
  have hd' : t.d.LiveFromStore s ∧ (s.fHeld = true → t.f.FromStore s) := by
    rcases executeStage_d_f hs h with ⟨hd', hf'⟩ | ⟨hd', hf'⟩ <;> rw [hf']
    · exact ⟨hd' ▸ hd, hf⟩
    · exact ⟨Latch.liveFromStore_of_dead hd', hf⟩
  obtain ⟨hd', hf'⟩ := hd'
  rcases executeStage_moves hs h with ⟨hmoved, hdead⟩ | ⟨-, he', hm'⟩ <;>
    rw [executeStage_frame hs h]
  · exact ⟨hd', Latch.liveFromStore_of_dead hdead,
      Latch.liveFromStore_congr rfl rfl hmoved he, hw, hf'⟩
  · rw [he', hm']
    exact ⟨hd', he, hm, hw, hf'⟩

theorem decodeStage_keeps_latchesFromStore (hs : s.stage = .decode) (h : decodeStage s = .next t)
    (hi : LatchesFromStore s) : LatchesFromStore t := by
  obtain ⟨hd, he, hm, hw, hf⟩ := hi
  rcases decodeStage_moves hs h with ⟨hmoved, hdead, -⟩ | ⟨hd', he', -⟩ <;>
    rw [decodeStage_frame hs h]
  · exact ⟨Latch.liveFromStore_of_dead hdead, Latch.liveFromStore_congr rfl rfl hmoved hd,
      hm, hw, hf⟩
  · rw [hd', he']
    exact ⟨hd, he, hm, hw, hf⟩

/-- Fetch loads from the store, and forwards what it loaded or held. -/
theorem fetchStage_keeps_latchesFromStore (hs : s.stage = .fetch) (h : fetchStage s = .next t)
    (hi : LatchesFromStore s) : LatchesFromStore t := by
  obtain ⟨hd, he, hm, hw, hf⟩ := hi
  have hload := s.loadedLatch_fromStore
  rcases fetchStage_cases hs h with ⟨-, rfl⟩ | ⟨-, -, -, rfl⟩ | ⟨-, -, -, rfl⟩ |
    ⟨-, -, -, hheld, rfl⟩ | ⟨-, -, -, rfl⟩
  · exact ⟨hd, he, hm, hw, hf⟩
  · exact ⟨hd, he, hm, hw, fun _ => hload⟩
  · split <;> exact ⟨fun _ => hload, he, hm, hw, fun _ => hload⟩
  · split <;> exact ⟨fun _ => hf hheld, he, hm, hw, nofun⟩
  · exact ⟨hd, he, hm, hw, hf⟩

/-- Writeback only empties its latch. -/
theorem writebackStage_keeps_latchesFromStore (hs : s.stage = .writeback)
    (h : writebackStage s = .next t) (hi : LatchesFromStore s) : LatchesFromStore t := by
  obtain ⟨hd, he, hm, -, hf⟩ := hi
  have hdead := writebackStage_w_dead hs h
  rw [writebackStage_frame hs h]
  exact ⟨hd, he, hm, Latch.liveFromStore_of_dead hdead, hf⟩

end FromStore

/-- Settles O46: Fetch loads every latch from the store, and the other stages only move it on. -/
theorem stepKeepsLatchesFromStore : Obligations.StepKeepsLatchesFromStore := by
  intro s t hi h
  exact step_keeps (Q := LatchesFromStore) (fun _ _ _ _ h => h)
    (fun _ _ hu hs e => writebackStage_keeps_latchesFromStore hs e hu)
    (fun _ _ hu hs e => memoryStage_keeps_latchesFromStore hs e hu)
    (fun _ _ hu hs e => executeStage_keeps_latchesFromStore hs e hu)
    (fun _ _ hu hs e => decodeStage_keeps_latchesFromStore hs e hu)
    (fun _ _ hu hs e => fetchStage_keeps_latchesFromStore hs e hu) hi h

section DeadLatches

/-! ### What a step reads of the latches

A state and its scrubbed copy step to states with the same scrubbed copy, stage by stage. -/

/-- The latch, or the zero latch in place of one that is not live. -/
def Latch.scrub (l : Latch) : Latch := if l.hasInstruction then l else Latch.zero

@[simp] theorem Latch.scrub_of_live {l : Latch} (h : l.hasInstruction = true) : l.scrub = l := by
  simp [Latch.scrub, h]

theorem Latch.scrub_of_dead {l : Latch} (h : l.hasInstruction = false) : l.scrub = Latch.zero := by
  simp [Latch.scrub, h]

@[simp] theorem Latch.scrub_hasInstruction (l : Latch) :
    l.scrub.hasInstruction = l.hasInstruction := by
  cases h : l.hasInstruction
  · rw [Latch.scrub_of_dead h]; rfl
  · rw [Latch.scrub_of_live h, h]

@[simp] theorem Latch.scrub_scrub (l : Latch) : l.scrub.scrub = l.scrub := by
  cases h : l.hasInstruction
  · rw [Latch.scrub_of_dead (by simpa using h), Latch.scrub_of_dead h]
  · rw [Latch.scrub_of_live (by simpa using h)]

@[simp] theorem Latch.scrub_clear (l : Latch) : l.clear.scrub = Latch.zero :=
  Latch.scrub_of_dead rfl

/-- A scrubbed state has its four latches scrubbed and all else as it was. -/
theorem State.scrub_eq (s : State) :
    s.scrub = { s with d := s.d.scrub, e := s.e.scrub, m := s.m.scrub, w := s.w.scrub } := rfl

@[simp] theorem State.scrub_d (s : State) : s.scrub.d = s.d.scrub := rfl
@[simp] theorem State.scrub_e (s : State) : s.scrub.e = s.e.scrub := rfl
@[simp] theorem State.scrub_m (s : State) : s.scrub.m = s.m.scrub := rfl
@[simp] theorem State.scrub_w (s : State) : s.scrub.w = s.w.scrub := rfl

@[simp] theorem State.scrub_scrub (s : State) : s.scrub.scrub = s.scrub := by
  simp [State.scrub_eq]

/-! ### The operations

`State.scrub_op` says that `op` does to a state and to its scrubbed copy what a rule may not tell
apart. -/

variable (s : State)

theorem State.scrub_raiseFault (k : FaultKind) (a : Word) :
    (s.scrub.raiseFault k a).scrub = (s.raiseFault k a).scrub := by
  simp [State.scrub_eq, State.raiseFault]

theorem State.scrub_retire : s.scrub.retire.scrub = s.retire.scrub := by
  simp [State.scrub_eq, State.retire]

theorem State.scrub_writeDestOf (hw : s.w.hasInstruction = true) (d : Option Reg) :
    s.scrub.writeDestOf d = (s.writeDestOf d).scrub := by
  cases d <;> simp [State.scrub_eq, State.writeDest, State.setReg, hw]

theorem State.scrub_passMemory : s.scrub.passMemory.scrub = s.passMemory.scrub := by
  simp [State.scrub_eq, State.passMemory]

@[simp] theorem State.scrub_cellIndex (a : Word) : s.scrub.cellIndex a = s.cellIndex a := rfl

theorem State.scrub_memoryLoad (hm : s.m.hasInstruction = true) :
    s.scrub.memoryLoad.scrub = s.memoryLoad.scrub := by
  unfold State.memoryLoad
  rw [State.scrub_cellIndex, State.scrub_m, Latch.scrub_of_live hm]
  cases s.cellIndex s.m.memoryAddress with
  | none => exact s.scrub_raiseFault _ _
  | some k => simp [State.scrub_eq, State.passMemory]

theorem State.scrub_memoryStore (hm : s.m.hasInstruction = true) (r : Reg) :
    (s.scrub.memoryStore r).scrub = (s.memoryStore r).scrub := by
  unfold State.memoryStore
  rw [State.scrub_cellIndex, State.scrub_m, Latch.scrub_of_live hm]
  cases s.cellIndex s.m.memoryAddress with
  | none => exact s.scrub_raiseFault _ _
  | some k => simp [State.scrub_eq, State.passMemory, State.reg]

theorem State.scrub_passExecute : s.scrub.passExecute.scrub = s.passExecute.scrub := by
  simp [State.scrub_eq, State.passExecute]

theorem State.scrub_takeBranch (target : Word) :
    (s.scrub.takeBranch target).scrub = (s.takeBranch target).scrub := by
  simp [State.scrub_eq, State.takeBranch]

/-- States that agree on what may be read still do when Execute has passed its latch on. -/
theorem State.passExecute_scrub_congr {a b : State} (h : a.scrub = b.scrub) :
    a.passExecute.scrub = b.passExecute.scrub := by
  rw [← a.scrub_passExecute, h, b.scrub_passExecute]

section Execute

variable (he : s.e.hasInstruction = true)
include he

theorem State.scrub_executeResult (v : Word) :
    (s.scrub.executeResult v).scrub = (s.executeResult v).scrub :=
  passExecute_scrub_congr (by simp [State.scrub_eq, State.setResult, he])

theorem State.scrub_executeResultZ (v : Word) :
    (s.scrub.executeResultZ v).scrub = (s.executeResultZ v).scrub :=
  passExecute_scrub_congr (by simp [State.scrub_eq, State.setResult, State.setZ, he])

theorem State.scrub_executeAddress (a : Word) :
    (s.scrub.executeAddress a).scrub = (s.executeAddress a).scrub :=
  passExecute_scrub_congr (by simp [State.scrub_eq, State.setAddress, he])

theorem State.scrub_executeBranch (c : Bool) (imm : Word) :
    (s.scrub.executeBranch c imm).scrub = (s.executeBranch c imm).scrub := by
  refine passExecute_scrub_congr ?_
  rw [State.scrub_e, Latch.scrub_of_live he]
  cases c with
  | true => exact s.scrub_takeBranch _
  | false => exact s.scrub_scrub

theorem State.scrub_executeCompare : s.scrub.executeCompare.scrub = s.executeCompare.scrub := by
  unfold State.executeCompare
  rw [State.scrub_e, Latch.scrub_of_live he]
  let z := zeroOfCompare s.e.sourceValue1 s.e.sourceValue2
  change (if s.cfg.cmpFallthrough then _ else _ : State).scrub = _
  split
  · exact (s.setZ z).scrub_executeBranch he z s.e.imm
  · exact (s.setZ z).scrub_passExecute

end Execute

theorem State.scrub_readSources (hd : s.d.hasInstruction = true) (a b : Option Reg) :
    s.scrub.readSources a b = (s.readSources a b).scrub := by
  have hreg : s.scrub.reg = s.reg := rfl
  rw [State.readSources, State.scrub_d, Latch.scrub_of_live hd, hreg]
  simp [State.scrub_eq, State.readSources, hd]

theorem State.scrub_invalidateDest (c : Option Reg) :
    s.scrub.invalidateDest c = (s.invalidateDest c).scrub := by
  cases c <;> rfl

theorem State.scrub_advanceDecode : s.scrub.advanceDecode.scrub = s.advanceDecode.scrub := by
  simp [State.scrub_eq, State.advanceDecode]

theorem State.scrub_sourceReady (r : Option Reg) : s.scrub.sourceReady r = s.sourceReady r := by
  cases r <;> rfl

theorem State.scrub_decodeWith (hd : s.d.hasInstruction = true) (a b c : Option Reg) :
    (s.scrub.decodeWith a b c).scrub = (s.decodeWith a b c).scrub := by
  unfold State.decodeWith
  rw [s.scrub_sourceReady, s.scrub_sourceReady]
  split
  · rw [s.scrub_readSources hd, State.scrub_invalidateDest, State.scrub_advanceDecode]
  · simp [State.scrub_eq, State.stall]

/-! ### The outcomes -/

/-- An outcome with its next state scrubbed. -/
def scrubOutcome : Result → Result
  | .next s => .next s.scrub
  | .fault r => .fault r
  | .refused r => .refused r

theorem scrubOutcome_next {s t : State} (h : s.scrub = t.scrub) :
    scrubOutcome (.next s) = scrubOutcome (.next t) := congrArg Host.Outcome.next h

/-- The stage does the same to a state and to its scrubbed copy. -/
def SeesOnlyScrubbed (st : Stage) (eval : State → Result) : Prop :=
  ∀ s : State, s.stage = st → scrubOutcome (eval s.scrub) = scrubOutcome (eval s)

theorem writebackStage_sees : SeesOnlyScrubbed .writeback writebackStage := by
  intro s hs
  unfold writebackStage
  rw [State.scrub_w, Latch.scrub_hasInstruction]
  split
  · next hl =>
    rw [Latch.scrub_of_live hl]
    split
    · next i _ =>
      rw [exec_writeback i s hs, exec_writeback i s.scrub hs]
      split
      · exact scrubOutcome_next (congrArg State.haltCore s.scrub_retire)
      · rw [s.scrub_writeDestOf hl]
        exact scrubOutcome_next (State.scrub_retire _)
    · rfl
  · exact scrubOutcome_next s.scrub_scrub

theorem memoryStage_sees : SeesOnlyScrubbed .memory memoryStage := by
  intro s hs
  unfold memoryStage
  rw [State.scrub_m, Latch.scrub_hasInstruction]
  split
  · next hl =>
    rw [Latch.scrub_of_live hl]
    split
    · next i _ =>
      rw [exec_memory i s hs, exec_memory i s.scrub hs]
      apply scrubOutcome_next
      cases i with
      | load | ldr => exact s.scrub_memoryLoad hl
      | store r | str r => exact s.scrub_memoryStore hl r
      | _ => exact s.scrub_passMemory
    · rfl
  · exact scrubOutcome_next s.scrub_passMemory

theorem executeStage_sees : SeesOnlyScrubbed .execute executeStage := by
  intro s hs
  unfold executeStage
  rw [State.scrub_e, Latch.scrub_hasInstruction]
  split
  · next hl =>
    rw [Latch.scrub_of_live hl]
    split
    · next i _ =>
      rw [exec_execute i s hs, exec_execute i s.scrub hs]
      apply scrubOutcome_next
      rw [State.scrub_e, Latch.scrub_of_live hl]
      cases i with
      | addl | subl => exact s.scrub_executeResult hl _
      | load | store | ldr | str => exact s.scrub_executeAddress hl _
      | cmp => exact s.scrub_executeCompare hl
      | bz imm | bnz imm => exact s.scrub_executeBranch hl _ imm
      | halt => exact s.scrub_passExecute
      | div =>
        dsimp only
        split
        · exact s.scrub_raiseFault _ _
        · exact s.scrub_executeResultZ hl _
      | _ => exact s.scrub_executeResultZ hl _
    · rfl
  · exact scrubOutcome_next s.scrub_passExecute

theorem decodeStage_sees : SeesOnlyScrubbed .decode decodeStage := by
  intro s hs
  unfold decodeStage
  rw [State.scrub_d, Latch.scrub_hasInstruction]
  split
  · next hl =>
    rw [Latch.scrub_of_live hl]
    split
    · exact scrubOutcome_next (s.scrub_raiseFault _ _)
    · rw [exec_decode _ s hs, exec_decode _ s.scrub hs]
      exact scrubOutcome_next (s.scrub_decodeWith hl _ _ _)
  · exact scrubOutcome_next s.scrub_scrub

theorem State.scrub_forward : s.scrub.forward.scrub = s.forward.scrub := by
  simp [State.scrub_eq, State.forward]

theorem forwardStage_sees : SeesOnlyScrubbed .fetch forwardStage := by
  intro s hs
  rw [forwardStage_eq hs, forwardStage_eq (s := s.scrub) hs]
  apply scrubOutcome_next
  change (if s.f.instr = some .halt then _ else _ : State).scrub = _
  split
  · exact congrArg State.disableFetch s.scrub_forward
  · exact s.scrub_forward

theorem fetchStage_sees : SeesOnlyScrubbed .fetch fetchStage := by
  intro s hs
  have keep {u : State} : scrubOutcome (.next u.scrub) = scrubOutcome (.next u) :=
    scrubOutcome_next u.scrub_scrub
  unfold fetchStage
  change scrubOutcome (if s.redirect then _ else if s.f.hasInstruction then
    if s.fIsStalled then _ else _ else if !s.fIsStalled && s.fHeld then _ else _) = _
  split
  · exact keep (u := { s with redirect := false })
  · split
    · split
      · exact keep (u := s.holdFetch)
      · exact forwardStage_sees s.loadAtPc hs
    · split
      · exact forwardStage_sees s.resumeFetch hs
      · exact keep

/-! ### The step -/

/-- A stage after outcomes that agree on what may be read ends in outcomes that do. -/
theorem SeesOnlyScrubbed.thenStage {st : Stage} {eval : State → Result}
    (heval : SeesOnlyScrubbed st eval) {o o' : Result} (h : scrubOutcome o = scrubOutcome o') :
    scrubOutcome (thenStage o st eval) = scrubOutcome (thenStage o' st eval) := by
  have unary (o : Result) : scrubOutcome (Machine.thenStage (scrubOutcome o) st eval) =
      scrubOutcome (Machine.thenStage o st eval) := by
    cases o with
    | next s =>
      change scrubOutcome (if s.status = .running then _ else _) =
        scrubOutcome (if s.status = .running then _ else _)
      split
      · exact heval { s with stage := st } rfl
      · exact scrubOutcome_next s.scrub_scrub
    | fault r => rfl
    | refused r => rfl
  rw [← unary o, h, unary o']

theorem scrubOutcome_closeCycle {o o' : Result} (h : scrubOutcome o = scrubOutcome o') :
    scrubOutcome (closeCycle o) = scrubOutcome (closeCycle o') := by
  have unary (o : Result) : scrubOutcome (closeCycle (scrubOutcome o)) =
      scrubOutcome (closeCycle o) := by
    cases o with
    | next s =>
      apply scrubOutcome_next
      change ({ (if s.status = .running then _ else _ : State) with stage := _ } : State).scrub = _
      split
      · exact State.scrub_scrub { s.tick with stage := .writeback }
      · exact State.scrub_scrub { s with stage := .writeback }
    | fault r => rfl
    | refused r => rfl
  rw [← unary o, h, unary o']

theorem scrubOutcome_cycle : scrubOutcome (cycle s.scrub) = scrubOutcome (cycle s) :=
  scrubOutcome_closeCycle <| fetchStage_sees.thenStage <| decodeStage_sees.thenStage <|
    executeStage_sees.thenStage <| memoryStage_sees.thenStage <|
    writebackStage_sees { s with stage := .writeback } rfl

theorem scrubOutcome_step : scrubOutcome (step s.scrub) = scrubOutcome (step s) := by
  unfold step advance
  change scrubOutcome (if s.status = .running then if s.clock = s.cfg.maxCycles then _ else _
    else _) = _
  split
  · split
    · exact scrubOutcome_next (State.scrub_scrub { s with status := .budgetExhausted })
    · exact scrubOutcome_cycle s
  · exact scrubOutcome_next s.scrub_scrub

end DeadLatches

/-- Settles O54: a state steps like its scrubbed copy, which the two states share. -/
theorem deadLatchesAreNeverRead : Obligations.DeadLatchesAreNeverRead := by
  intro s s' h
  have hstep : scrubOutcome (step s) = scrubOutcome (step s') := by
    rw [← scrubOutcome_step s, h, scrubOutcome_step s']
  revert hstep
  cases step s <;> cases step s' <;> simp [scrubOutcome]

section Changes

/-! ### What a step may change -/

/-- Settles O28: no stage's frame lists the Instruction Store or the configuration. -/
theorem storeAndConfigurationNeverChange : Obligations.StoreAndConfigurationNeverChange := by
  intro s t h
  refine step_keeps (Q := fun u => u.istore = s.istore ∧ u.cfg = s.cfg) (fun _ _ _ _ h => h)
    ?_ ?_ ?_ ?_ ?_ ⟨rfl, rfl⟩ h
  · exact fun u v hu hs e => by rw [writebackStage_frame hs e]; exact hu
  · exact fun u v hu hs e => by rw [memoryStage_frame hs e]; exact hu
  · exact fun u v hu hs e => by rw [executeStage_frame hs e]; exact hu
  · exact fun u v hu hs e => by rw [decodeStage_frame hs e]; exact hu
  · exact fun u v hu hs e => by rw [fetchStage_frame hs e]; exact hu

/-- Settles O44: only Memory writes data memory, and only a cell in range. -/
theorem stepKeepsMemoryCanonical : Obligations.StepKeepsMemoryCanonical := by
  intro s t hok h
  refine step_keeps (Q := MemoryOk) (fun _ _ _ _ h => h) ?_ ?_ ?_ ?_ ?_ hok h
  · exact fun u v hu hs e => by rw [writebackStage_frame hs e]; exact hu
  · intro u v hu hs e
    have hcfg : v.cfg = u.cfg := by rw [memoryStage_frame hs e]
    rw [MemoryOk, hcfg]
    rcases memoryStage_dmem hs e with hd | ⟨-, r, k, -, -, hk, hd⟩ <;> rw [hd]
    · exact hu
    · exact Memory.write_ok _ hu (State.cellIndex_some hk).1
  · exact fun u v hu hs e => by rw [executeStage_frame hs e]; exact hu
  · exact fun u v hu hs e => by rw [decodeStage_frame hs e]; exact hu
  · exact fun u v hu hs e => by rw [fetchStage_frame hs e]; exact hu

/-- Settles O24: Writeback writes its latch's destination; no later stage's frame lists a
register. -/
theorem onlyWritebackWritesRegisters : Obligations.OnlyWritebackWritesRegisters := by
  intro s t h r
  refine step_carries (Q := fun u =>
      u.reg r = s.reg r ∨ (s.w.dest = some r ∧ u.reg r = s.w.resultValue))
    (R0 := fun u => u = { s with stage := .writeback }) (R1 := fun _ => True)
    (R2 := fun _ => True) (R3 := fun _ => True) (R4 := fun _ => True)
    (fun _ _ _ _ h => h) ?_ ?_ ?_ ?_ ?_ (.inl rfl) rfl h
  · rintro u v - rfl hs e
    refine ⟨?_, fun _ => trivial⟩
    rw [writebackStage_reg hs e r, State.regAfterWriteback]
    split
    · next hw => exact .inr ⟨hw, rfl⟩
    · exact .inl rfl
  · exact fun u v hu _ hs e => by rw [memoryStage_frame hs e]; exact ⟨hu, fun _ => trivial⟩
  · exact fun u v hu _ hs e => by rw [executeStage_frame hs e]; exact ⟨hu, fun _ => trivial⟩
  · exact fun u v hu _ hs e => by rw [decodeStage_frame hs e]; exact ⟨hu, fun _ => trivial⟩
  · exact fun u v hu _ hs e => by rw [fetchStage_frame hs e]; exact hu

/-- Settles O26: no stage but Execute changes Z, and it only for a Z-writing instruction. -/
theorem onlyZWritersChangeZ : Obligations.OnlyZWritersChangeZ := by
  intro s t h
  refine step_carries (Q := fun u => u.z ≠ s.z → ∃ i, s.e.holds i ∧ i.writesZ = true)
    (R0 := fun u => u.e = s.e ∧ u.z = s.z) (R1 := fun u => u.e = s.e ∧ u.z = s.z)
    (R2 := fun u => u.e = s.e ∧ u.z = s.z) (R3 := fun _ => True) (R4 := fun _ => True)
    (fun _ _ _ _ h => h) ?_ ?_ ?_ ?_ ?_ (fun hne => absurd rfl hne) ⟨rfl, rfl⟩ h
  · intro u v hu hr hs e
    rw [writebackStage_frame hs e]
    exact ⟨hu, fun _ => hr⟩
  · intro u v hu hr hs e
    rw [memoryStage_frame hs e]
    exact ⟨hu, fun _ => hr⟩
  · rintro u v - ⟨he, hz⟩ hs e
    refine ⟨fun hne => ?_, fun _ => trivial⟩
    rcases executeStage_z hs e with hv | hw
    · exact absurd (hv.trans hz) hne
    · exact he ▸ hw
  · exact fun u v hu _ hs e => by rw [decodeStage_frame hs e]; exact ⟨hu, fun _ => trivial⟩
  · exact fun u v hu _ hs e => by rw [fetchStage_frame hs e]; exact hu

/-- Settles O25: the store in the Memory latch writes its cell, from a register that Writeback has
already written and no later stage changes. -/
theorem onlyStoresWriteDataMemory : Obligations.OnlyStoresWriteDataMemory := by
  intro s t hok h k
  refine step_carries (Q := fun u => u.dmem.read k = s.dmem.read k ∨
      (∃ i r, s.m.holds i ∧ i.storeData = some r ∧ (k : Int) = s.m.memoryAddress.toInt ∧
        k < s.cfg.dmemSize ∧ u.dmem.read k = u.reg r ∧
        u.reg r = s.regAfterWriteback r))
    (R0 := fun u => u = { s with stage := .writeback })
    (R1 := fun u => u.cfg = s.cfg ∧ u.dmem = s.dmem ∧ u.m = s.m ∧
      ∀ r, u.reg r = s.regAfterWriteback r)
    (R2 := fun _ => True) (R3 := fun _ => True) (R4 := fun _ => True)
    (fun _ _ _ _ h => h) ?_ ?_ ?_ ?_ ?_ (.inl rfl) rfl h
  · rintro u v - rfl hs e
    have hreg := writebackStage_reg hs e
    have hframe := writebackStage_frame hs e
    have hdmem : v.dmem = s.dmem := by rw [hframe]
    exact ⟨.inl (by rw [hdmem]), fun _ => ⟨by rw [hframe], hdmem, by rw [hframe], hreg⟩⟩
  · rintro u v - ⟨hcfg, hdmem, hm, hreg⟩ hs e
    refine ⟨?_, fun _ => trivial⟩
    have hx : v.x = u.x := by rw [memoryStage_frame hs e]
    have hvreg (r : Reg) : v.reg r = u.reg r := by rw [State.reg, hx]; rfl
    rcases memoryStage_dmem hs e with hd | ⟨i, r, j, hi, hr, hj, hd⟩
    · exact .inl (by rw [hd, hdmem])
    · by_cases hjk : j = k
      · subst hjk
        obtain ⟨hlt, hj⟩ := State.cellIndex_some hj
        refine .inr ⟨i, r, hm ▸ hi, hr, hm ▸ hj, hcfg ▸ hlt, ?_, (hvreg r).trans (hreg r)⟩
        rw [hd, hvreg, Memory.read_write_self]
        exact hdmem ▸ hok.1
      · exact .inl (by rw [hd, Memory.read_write_other _ _ _ _ hjk, hdmem])
  · exact fun u v hu _ hs e => by rw [executeStage_frame hs e]; exact ⟨hu, fun _ => trivial⟩
  · exact fun u v hu _ hs e => by rw [decodeStage_frame hs e]; exact ⟨hu, fun _ => trivial⟩
  · exact fun u v hu _ hs e => by rw [fetchStage_frame hs e]; exact hu

/-- What Execute leaves for Fetch: the PC is unmoved, or a branch redirected it and flushed
Decode. -/
def Redirected (s u : State) : Prop :=
  u.pc = s.pc ∨ (s.e.TakesBranch s ∧ u.pc = s.e.pc + s.e.imm ∧ u.redirect = true ∧
    u.d.hasInstruction = false)

/-- What a step may do to the PC: leave it, move it on by 4 with Decode live, or set it to the target
of a branch that flushed Decode. -/
def PcMoved (s u : State) : Prop :=
  u.pc = s.pc ∨ (u.pc = s.pc + 4 ∧ u.d.hasInstruction = true) ∨
  (s.e.TakesBranch s ∧ u.pc = s.e.pc + s.e.imm ∧ u.d.hasInstruction = false)

theorem Redirected.pcMoved {s u : State} (h : Redirected s u) : PcMoved s u :=
  h.imp id fun ⟨hb, hpc, _, hd⟩ => .inr ⟨hb, hpc, hd⟩

theorem decodeStage_keeps_redirected {s u v : State} (hs : u.stage = .decode)
    (e : decodeStage u = .next v) (hu : Redirected s u) : Redirected s v := by
  rcases hu with hpc | ⟨hb, hpc, hr, hd⟩
  · exact .inl (by rw [decodeStage_frame hs e, ← hpc])
  · rw [decodeStage_of_dead hd] at e
    cases e
    exact .inr ⟨hb, hpc, hr, hd⟩

/-- Settles O27: Execute moves the PC by a taken branch, and then Fetch does not; otherwise only
Fetch moves it. -/
theorem pcMovesByForwardOrTakenBranch : Obligations.PcMovesByForwardOrTakenBranch := by
  intro s t h
  refine step_carries (Q := PcMoved s)
    (R0 := fun u => u.cfg = s.cfg ∧ u.pc = s.pc ∧ u.z = s.z ∧ u.e = s.e)
    (R1 := fun u => u.cfg = s.cfg ∧ u.pc = s.pc ∧ u.z = s.z ∧ u.e = s.e)
    (R2 := fun u => u.cfg = s.cfg ∧ u.pc = s.pc ∧ u.z = s.z ∧ u.e = s.e)
    (R3 := Redirected s) (R4 := Redirected s)
    (fun _ _ _ _ h => h) ?_ ?_ ?_ ?_ ?_ (.inl rfl) ⟨rfl, rfl, rfl, rfl⟩ h
  · intro u v hu hr hs e
    rw [writebackStage_frame hs e]
    exact ⟨hu, fun _ => hr⟩
  · intro u v hu hr hs e
    rw [memoryStage_frame hs e]
    exact ⟨hu, fun _ => hr⟩
  · rintro u v - ⟨hcfg, hpc, hz, he⟩ hs e
    have hv : Redirected s v := by
      have hmove := executeStage_pc hs e
      simp only [Latch.TakesBranch, he, hz, hcfg, hpc] at hmove
      exact hmove
    exact ⟨hv.pcMoved, fun _ => hv⟩
  · intro u v _ hr hs e
    have hv := decodeStage_keeps_redirected hs e hr
    exact ⟨hv.pcMoved, fun _ => hv⟩
  · intro u v _ hr hs e
    rcases hr with hpc | ⟨hb, hpc, hr, hd⟩
    · rcases fetchStage_pc hs e with hv | ⟨hv, hd⟩
      · exact .inl (hv.trans hpc)
      · exact .inr (.inl ⟨hpc ▸ hv, hd⟩)
    · rw [fetchStage_of_redirect hr] at e
      cases e
      exact .inr (.inr ⟨hb, hpc, hd⟩)

end Changes

section Reset

/-! ### The constructed state -/

variable (cfg : Config) (program : List Record)

theorem State.init_reg (r : Reg) : (State.init cfg program).reg r = 0 := by
  simp [State.init, State.reg]

/-- No writer is in flight at construction. -/
theorem State.init_inFlight (r : Reg) : (State.init cfg program).inFlight r = 0 := rfl

/-- Every latch of the constructed state is the zero latch, but for Fetch's control bit (R38). -/
theorem State.init_latch {l : Latch} (hl : l ∈ [(State.init cfg program).f,
    (State.init cfg program).d, (State.init cfg program).e, (State.init cfg program).m,
    (State.init cfg program).w]) :
    l = { Latch.zero with hasInstruction := true } ∨ l = Latch.zero := by
  simpa [State.init] using hl

theorem State.init_scoreboard :
    (State.init cfg program).scoreboard = Scoreboard.reset cfg.scoreboardKind := rfl

theorem State.init_countsWriters : CountsWriters (State.init cfg program) := by
  intro pend h r
  have hready := Scoreboard.reset_ready cfg.scoreboardKind r
  rw [← State.init_scoreboard cfg program, h] at hready
  rw [State.init_inFlight]
  simpa [Scoreboard.ready] using hready

theorem State.init_invalidHasWriter : InvalidHasWriter (State.init cfg program) := by
  rw [invalidHasWriter_iff]
  intro _ r hr
  rw [State.init_scoreboard, Scoreboard.reset_ready] at hr
  cases hr

end Reset

/-- Settles O1: the value fields of a latch are those of the zero latch, the rest is read off
construction. -/
theorem constructionResetsEveryElement : Obligations.ConstructionResetsEveryElement := by
  intro cfg program s
  have hready (r : Reg) : s.scoreboard.ready r = true := Scoreboard.reset_ready _ r
  have hflag (h : cfg.scoreboardKind = .flag) :
      s.scoreboard = .flag (Vector.replicate 16 true) := by
    rw [State.init_scoreboard, h, Scoreboard.reset]
  have hcounter (h : cfg.scoreboardKind = .counter) :
      s.scoreboard = .counter (Vector.replicate 16 0) := by
    rw [State.init_scoreboard, h, Scoreboard.reset]
  refine ⟨State.init_reg cfg program, hready, hflag, hcounter, rfl, rfl, rfl,
    Memory.read_empty, rfl, rfl, rfl, rfl, rfl, rfl, rfl, rfl, rfl, rfl, ?_, rfl, rfl, rfl⟩
  intro l hl
  rcases State.init_latch cfg program hl with rfl | rfl <;>
    exact ⟨rfl, rfl, rfl, rfl, rfl, rfl, rfl, rfl, rfl, rfl⟩

/-- Settles O2: at construction nothing is in flight, so each invariant holds of empty latches, a
reset scoreboard or an empty memory. -/
theorem constructedStateMeetsTheInvariants : Obligations.ConstructedStateMeetsTheInvariants := by
  intro cfg program
  have hcontrol : ControlBits (State.init cfg program) := ⟨rfl, nofun, nofun, rfl, nofun⟩
  have hhalt : NothingBehindHalt (State.init cfg program) :=
    ⟨fun h => (nomatch h.1), fun h => (nomatch h.1), fun h => (nomatch h.1),
      fun h => (nomatch h.1)⟩
  have hstore : LatchesFromStore (State.init cfg program) := ⟨nofun, nofun, nofun, nofun, nofun⟩
  exact ⟨hcontrol, ⟨nofun, nofun, nofun⟩, hhalt, State.init_countsWriters cfg program,
    State.init_invalidHasWriter cfg program, Scoreboard.reset_kind _, ⟨Memory.empty_wf, nofun⟩,
    ⟨le_rfl, Nat.zero_le _⟩, hstore⟩

end Sys2Proof.Machine

/-!
PROOFS. The statements about encoding (30_encoding.md): what the decoder reads of a record, and what
construction admits. First the layer they share: every opcode's decoder is one reader of the fields
its format uses, so a fact about records is proved field by field and not opcode by opcode.
-/

namespace Sys2Proof

section Fields

/-! ### Reading one field (R81 to R83) -/

theorem bind_eq_ok_iff {ε α β : Type} {x : Except ε α} {f : α → Except ε β} {b : β} :
    (x >>= f) = .ok b ↔ ∃ a, x = .ok a ∧ f a = .ok b := by
  cases x <;> simp [bind, Except.bind]

theorem bind_eq_error_iff {ε α β : Type} {x : Except ε α} {f : α → Except ε β} {e : ε} :
    (x >>= f) = .error e ↔ x = .error e ∨ ∃ a, x = .ok a ∧ f a = .error e := by
  cases x <;> simp [bind, Except.bind]

/-- A register field is read as the index it holds (R83). -/
theorem regField_ok_iff {f : Field} {v : Option Int} {x : Reg} :
    regField f v = .ok x ↔ v = some (x.val : Int) := by
  cases v with
  | none => simp [regField]
  | some n =>
    simp only [regField]
    split
    · simp only [Except.ok.injEq, Fin.ext_iff, Option.some.injEq]
      omega
    · simp only [reduceCtorEq, Option.some.injEq, false_iff]
      omega

/-- A register field that is absent or out of range is refused by name (R85 (c), (d)). -/
theorem regField_error_iff {f : Field} {v : Option Int} {e : DecodeError} :
    regField f v = .error e ↔ (e = .missingField f ∧ v = none) ∨
      ∃ n, e = .registerOutOfRange f n ∧ (n < 0 ∨ 15 < n) ∧ v = some n := by
  cases v with
  | none => simp [regField, eq_comm]
  | some n =>
    simp only [regField]
    split
    · simp only [reduceCtorEq, and_false, Option.some.injEq, false_or, false_iff]
      rintro ⟨m, -, hm, rfl⟩
      omega
    · next h =>
      have hn : n < 0 ∨ 15 < n := by omega
      simp [hn, eq_comm]

theorem immField_ok_iff {v : Option Word} {x : Word} : immField v = .ok x ↔ v = some x := by
  cases v <;> simp [immField]

theorem immField_error_iff {v : Option Word} {e : DecodeError} :
    immField v = .error e ↔ e = .missingField .imm ∧ v = none := by
  cases v <;> simp [immField, eq_comm]

/-- Which register fields can be read. -/
theorem exists_regField_ok_iff (f : Field) (v : Option Int) :
    (∃ x, regField f v = .ok x) ↔ ∃ n : Int, v = some n ∧ 0 ≤ n ∧ n ≤ 15 := by
  simp only [regField_ok_iff]
  constructor
  · rintro ⟨x, hx⟩
    exact ⟨x.val, hx, by omega, by omega⟩
  · rintro ⟨n, hn, h0, h15⟩
    refine ⟨⟨n.toNat, by omega⟩, hn.trans ?_⟩
    rw [Int.toNat_of_nonneg h0]

theorem regFieldOk_iff (v : Option Int) :
    regFieldOk v = true ↔ ∃ n : Int, v = some n ∧ 0 ≤ n ∧ n ≤ 15 := by
  cases v with
  | none => simp [regFieldOk]
  | some n =>
    simp only [regFieldOk, decide_eq_true_eq, Option.some.injEq, exists_eq_left']
    omega

end Fields

section Reader

/-! ### Reading a record's fields by its opcode's format -/

/-- Read a field that is used; one that is not reads as 0, whatever it holds (R81). -/
def ifUsed {α : Type} [Zero α] (used : Bool) (read : Except DecodeError α) :
    Except DecodeError α :=
  if used then read else .ok 0

theorem ifUsed_ok_iff {α : Type} [Zero α] {used : Bool} {read : Except DecodeError α} {x : α} :
    ifUsed used read = .ok x ↔ (used = true → read = .ok x) ∧ (used = false → x = 0) := by
  cases used <;> simp [ifUsed, eq_comm]

theorem ifUsed_error_iff {α : Type} [Zero α] {used : Bool} {read : Except DecodeError α}
    {e : DecodeError} : ifUsed used read = .error e ↔ used = true ∧ read = .error e := by
  cases used <;> simp [ifUsed]

theorem exists_ifUsed_ok_iff {α : Type} [Zero α] (used : Bool) (read : Except DecodeError α) :
    (∃ x, ifUsed used read = .ok x) ↔ (used = true → ∃ x, read = .ok x) := by
  cases used <;> simp [ifUsed]

/-- The record with the fields that the format of `o` uses, and 0 in the others. -/
def RawRecord.readFields (r : RawRecord) (o : Opcode) : Except DecodeError Record := do
  let rd ← ifUsed (o.format.uses .rd) (regField .rd r.rd)
  let rs1 ← ifUsed (o.format.uses .rs1) (regField .rs1 r.rs1)
  let rs2 ← ifUsed (o.format.uses .rs2) (regField .rs2 r.rs2)
  let imm ← ifUsed (o.format.uses .imm) (immField r.imm)
  return ⟨o, rd, rs1, rs2, imm, r.mnemonic⟩

theorem decode_unknown {r : RawRecord} {tag : String} (h : r.opcode = .unknown tag) :
    decode r = .error (.unknownOpcode tag) := by
  simp [decode, h]

/-- Every opcode's decoder reads the fields its format uses, and takes the instruction of what it
read (R81, R84). -/
theorem decode_named {r : RawRecord} {o : Opcode} (h : r.opcode = .named o) :
    decode r = (do let a ← r.readFields o; return a.instr) := by
  unfold decode RawRecord.readFields
  rw [h]
  cases o <;>
    simp [decodeRegs3, decodeRegs2Imm, ifUsed, Opcode.format, Format.uses, Record.instr] <;> rfl

/-! ### What the reader answers -/

/-- The used fields of the record hold the values of `a`. -/
def RawRecord.Agrees (r : RawRecord) (o : Opcode) (a : Record) : Prop :=
  (o.format.uses .rd = true → r.rd = some (a.rd.val : Int)) ∧
  (o.format.uses .rs1 = true → r.rs1 = some (a.rs1.val : Int)) ∧
  (o.format.uses .rs2 = true → r.rs2 = some (a.rs2.val : Int)) ∧
  (o.format.uses .imm = true → r.imm = some a.imm)

/-- The fields an admitted record's format does not use hold 0 (R81, R83). -/
def Record.UnusedZero (a : Record) : Prop :=
  (a.opcode.format.uses .rd = false → a.rd = 0) ∧
  (a.opcode.format.uses .rs1 = false → a.rs1 = 0) ∧
  (a.opcode.format.uses .rs2 = false → a.rs2 = 0) ∧
  (a.opcode.format.uses .imm = false → a.imm = 0)

/-- The used fields of the record are present, and its used registers are in range (R85 (c),
(d)). -/
def RawRecord.Admissible (r : RawRecord) (o : Opcode) : Prop :=
  (o.format.uses .rd = true → ∃ v : Int, r.rd = some v ∧ 0 ≤ v ∧ v ≤ 15) ∧
  (o.format.uses .rs1 = true → ∃ v : Int, r.rs1 = some v ∧ 0 ≤ v ∧ v ≤ 15) ∧
  (o.format.uses .rs2 = true → ∃ v : Int, r.rs2 = some v ∧ 0 ≤ v ∧ v ≤ 15) ∧
  (o.format.uses .imm = true → ∃ v, r.imm = some v)

/-- The field of the record is absent. -/
def RawRecord.Absent (r : RawRecord) (f : Field) : Prop :=
  (f = .rd ∧ r.rd = none) ∨ (f = .rs1 ∧ r.rs1 = none) ∨ (f = .rs2 ∧ r.rs2 = none) ∨
    (f = .imm ∧ r.imm = none)

/-- The register field of the record holds `v`. -/
def RawRecord.HoldsReg (r : RawRecord) (f : Field) (v : Int) : Prop :=
  (f = .rd ∧ r.rd = some v) ∨ (f = .rs1 ∧ r.rs1 = some v) ∨ (f = .rs2 ∧ r.rs2 = some v)

/-- `e` says what is wrong with field `f` of the record (R85 (c), (d)). -/
def RawRecord.NamesWrong (r : RawRecord) (f : Field) (e : DecodeError) : Prop :=
  (e = .missingField f ∧ r.Absent f) ∨
    ∃ v, e = .registerOutOfRange f v ∧ (v < 0 ∨ 15 < v) ∧ r.HoldsReg f v

variable {r : RawRecord} {o : Opcode}

/-- The reader answers the one record of opcode `o` that agrees in the used fields. -/
theorem readFields_ok_iff {a : Record} : r.readFields o = .ok a ↔
    a.opcode = o ∧ a.mnemonic = r.mnemonic ∧ a.UnusedZero ∧ r.Agrees o a := by
  simp only [RawRecord.readFields, bind_eq_ok_iff, ifUsed_ok_iff, regField_ok_iff, immField_ok_iff]
  constructor
  · rintro ⟨rd, ⟨hrd, zrd⟩, rs1, ⟨hrs1, zrs1⟩, rs2, ⟨hrs2, zrs2⟩, imm, ⟨himm, zimm⟩, ha⟩
    cases ha
    exact ⟨rfl, rfl, ⟨zrd, zrs1, zrs2, zimm⟩, hrd, hrs1, hrs2, himm⟩
  · rintro ⟨rfl, hm, ⟨zrd, zrs1, zrs2, zimm⟩, hrd, hrs1, hrs2, himm⟩
    refine ⟨_, ⟨hrd, zrd⟩, _, ⟨hrs1, zrs1⟩, _, ⟨hrs2, zrs2⟩, _, ⟨himm, zimm⟩, ?_⟩
    rw [← hm]
    rfl

/-- The reader succeeds exactly on the fields that meet R85 (c), (d). -/
theorem exists_readFields_ok_iff : (∃ a, r.readFields o = .ok a) ↔ r.Admissible o := by
  have himm : (∃ x, immField r.imm = .ok x) ↔ ∃ x, r.imm = some x := by
    simp only [immField_ok_iff]
  unfold RawRecord.Admissible
  rw [← exists_regField_ok_iff .rd, ← exists_regField_ok_iff .rs1, ← exists_regField_ok_iff .rs2,
    ← himm]
  simp only [← exists_ifUsed_ok_iff, RawRecord.readFields, bind_eq_ok_iff]
  constructor
  · rintro ⟨a, rd, hrd, rs1, hrs1, rs2, hrs2, imm, himm, -⟩
    exact ⟨⟨rd, hrd⟩, ⟨rs1, hrs1⟩, ⟨rs2, hrs2⟩, ⟨imm, himm⟩⟩
  · rintro ⟨⟨rd, hrd⟩, ⟨rs1, hrs1⟩, ⟨rs2, hrs2⟩, ⟨imm, himm⟩⟩
    exact ⟨_, rd, hrd, rs1, hrs1, rs2, hrs2, imm, himm, rfl⟩

/-- A refusal of a register field names that field. -/
theorem namesWrong_of_regField {f : Field} {v : Option Int} {e : DecodeError}
    (h : regField f v = .error e) (habsent : v = none → r.Absent f)
    (hholds : ∀ n, v = some n → r.HoldsReg f n) : r.NamesWrong f e := by
  rcases regField_error_iff.mp h with ⟨he, hv⟩ | ⟨n, he, hn, hv⟩
  · exact .inl ⟨he, habsent hv⟩
  · exact .inr ⟨n, he, hn, hholds n hv⟩

/-- The reader refuses a record by what is wrong with a used field. -/
theorem readFields_error {e : DecodeError} (h : r.readFields o = .error e) :
    ∃ f, o.format.uses f = true ∧ r.NamesWrong f e := by
  simp only [RawRecord.readFields, bind_eq_error_iff, ifUsed_error_iff] at h
  rcases h with ⟨hu, h⟩ | ⟨_, -, ⟨hu, h⟩ | ⟨_, -, ⟨hu, h⟩ | ⟨_, -, ⟨hu, h⟩ | ⟨_, -, h⟩⟩⟩⟩
  · exact ⟨.rd, hu, namesWrong_of_regField h (by simp [RawRecord.Absent])
      (by simp [RawRecord.HoldsReg])⟩
  · exact ⟨.rs1, hu, namesWrong_of_regField h (by simp [RawRecord.Absent])
      (by simp [RawRecord.HoldsReg])⟩
  · exact ⟨.rs2, hu, namesWrong_of_regField h (by simp [RawRecord.Absent])
      (by simp [RawRecord.HoldsReg])⟩
  · obtain ⟨he, hv⟩ := immField_error_iff.mp h
    exact ⟨.imm, hu, .inl ⟨he, .inr (.inr (.inr ⟨rfl, hv⟩))⟩⟩
  · cases h

end Reader

section Records

/-! ### Instructions and their records (R80) -/

@[simp] theorem instr_ofInstr (i : Instr) (m : String) : (Record.ofInstr i m).instr = i := by
  cases i <;> rfl

@[simp] theorem opcode_ofInstr (i : Instr) (m : String) :
    (Record.ofInstr i m).opcode = i.opcode := by
  cases i <;> rfl

@[simp] theorem mnemonic_ofInstr (i : Instr) (m : String) :
    (Record.ofInstr i m).mnemonic = m := by
  cases i <;> rfl

/-- Whether a record agrees with an instruction's record does not rest on the display text (R80). -/
theorem agrees_ofInstr_iff (r : RawRecord) (o : Opcode) (i : Instr) (m m' : String) :
    r.Agrees o (Record.ofInstr i m) ↔ r.Agrees o (Record.ofInstr i m') := by
  cases i <;> rfl

theorem unusedZero_ofInstr (i : Instr) (m : String) : (Record.ofInstr i m).UnusedZero := by
  cases i <;> simp [Record.UnusedZero, Record.ofInstr, Opcode.format, Format.uses]

/-- An admitted record is determined by its instruction and its display text. -/
theorem ofInstr_instr {a : Record} (h : a.UnusedZero) : Record.ofInstr a.instr a.mnemonic = a := by
  obtain ⟨o, rd, rs1, rs2, imm, m⟩ := a
  cases o <;> simp_all [Record.UnusedZero, Record.instr, Record.ofInstr, Opcode.format, Format.uses]

end Records

section Decoder

/-! ### The decoder and the admission of a record -/

variable {r : RawRecord} {i : Instr}

/-- A record of opcode `o` decodes to the instructions of that opcode whose used fields it holds. -/
theorem decode_named_ok_iff {o : Opcode} (ho : r.opcode = .named o) : decode r = .ok i ↔
    i.opcode = o ∧ r.Agrees o (Record.ofInstr i r.mnemonic) := by
  rw [decode_named ho, bind_eq_ok_iff]
  simp only [readFields_ok_iff]
  constructor
  · rintro ⟨a, ⟨hao, ham, hz, hr⟩, ha⟩
    cases ha
    rw [← ham, ofInstr_instr hz]
    exact ⟨(Machine.opcode_instr_record a).trans hao, hr⟩
  · rintro ⟨hi, hr⟩
    refine ⟨Record.ofInstr i r.mnemonic, ⟨?_, ?_, unusedZero_ofInstr i _, hr⟩, ?_⟩
    · rw [opcode_ofInstr, hi]
    · rw [mnemonic_ofInstr]
    · rw [instr_ofInstr]
      rfl

/-- A record decodes to `i` exactly when its tag is `i`'s opcode and its used fields are those of
`i`'s record. -/
theorem decode_ok_iff :
    decode r = .ok i ↔
      r.opcode = .named i.opcode ∧ r.Agrees i.opcode (Record.ofInstr i i.opcode.name) := by
  rw [agrees_ofInstr_iff r i.opcode i i.opcode.name r.mnemonic]
  cases ho : r.opcode with
  | unknown tag => simp [decode_unknown ho]
  | named o =>
    rw [decode_named_ok_iff ho, OpcodeTag.named.injEq, eq_comm]
    exact and_congr_right fun h => by rw [h]

@[simp] theorem encode_opcode (i : Instr) : (encode i).opcode = .named i.opcode := by
  simp [encode, Record.toRaw]

theorem decode_encode (i : Instr) : decode (encode i) = .ok i :=
  decode_ok_iff.mpr ⟨encode_opcode i, fun _ => rfl, fun _ => rfl, fun _ => rfl, fun _ => rfl⟩

/-- R85 (b), (c), (d) in words. -/
theorem wf_iff : r.wf = true ↔ ∃ o, r.opcode = .named o ∧ r.Admissible o := by
  unfold RawRecord.wf
  cases ho : r.opcode with
  | unknown tag => simp
  | named o =>
    simp [RawRecord.Admissible, imp_iff_not_or, ← regFieldOk_iff, Option.isSome_iff_exists,
      and_assoc]

/-- The decoder refuses exactly what is not well formed (R85). -/
theorem exists_decode_ok_iff : (∃ i, decode r = .ok i) ↔ r.wf = true := by
  rw [wf_iff]
  cases ho : r.opcode with
  | unknown tag => simp [decode_unknown ho]
  | named o =>
    simp only [OpcodeTag.named.injEq, exists_eq_left', ← exists_readFields_ok_iff,
      decode_named ho, bind_eq_ok_iff]
    exact ⟨fun ⟨_, a, ha, _⟩ => ⟨a, ha⟩, fun ⟨a, ha⟩ => ⟨_, a, ha, rfl⟩⟩

/-- How a record is refused: its tag is unknown, or a field its format uses is wrong. -/
theorem decode_error_cases {e : DecodeError} (h : decode r = .error e) :
    (∃ tag, r.opcode = .unknown tag ∧ e = .unknownOpcode tag) ∨
    ∃ o f, r.opcode = .named o ∧ o.format.uses f = true ∧ r.NamesWrong f e := by
  cases ho : r.opcode with
  | unknown tag =>
    rw [decode_unknown ho] at h
    cases h
    exact .inl ⟨tag, rfl, rfl⟩
  | named o =>
    rw [decode_named ho, bind_eq_error_iff] at h
    rcases h with h | ⟨a, -, ha⟩
    · obtain ⟨f, hu, hf⟩ := readFields_error h
      exact .inr ⟨o, f, rfl, hu, hf⟩
    · cases ha

theorem decode_unknown_iff {tag : String} :
    decode r = .error (.unknownOpcode tag) ↔ r.opcode = .unknown tag := by
  refine ⟨fun h => ?_, decode_unknown⟩
  rcases decode_error_cases h with ⟨tag', ho, he⟩ | ⟨o, f, -, -, ⟨he, -⟩ | ⟨v, he, -⟩⟩
  · cases he
    exact ho
  · cases he
  · cases he

theorem decode_ne_noBinaryEncoding : decode r ≠ .error .noBinaryEncoding := by
  intro h
  rcases decode_error_cases h with ⟨tag, -, he⟩ | ⟨o, f, -, -, ⟨he, -⟩ | ⟨v, he, -⟩⟩ <;> cases he

/-- A missing-field refusal names an absent field that the format uses (R85 (d)). -/
theorem decode_missingField {f : Field} (h : decode r = .error (.missingField f)) :
    ∃ o, r.opcode = .named o ∧ o.format.uses f = true ∧ r.Absent f := by
  rcases decode_error_cases h with ⟨tag, -, he⟩ | ⟨o, f', ho, hu, ⟨he, hf⟩ | ⟨v, he, -⟩⟩
  · cases he
  · cases he
    exact ⟨o, ho, hu, hf⟩
  · cases he

/-- An out-of-range refusal names a register field that the format uses and its value (R85 (c)). -/
theorem decode_registerOutOfRange {f : Field} {v : Int}
    (h : decode r = .error (.registerOutOfRange f v)) :
    (v < 0 ∨ 15 < v) ∧ ∃ o, r.opcode = .named o ∧ o.format.uses f = true ∧ r.HoldsReg f v := by
  rcases decode_error_cases h with ⟨tag, -, he⟩ | ⟨o, f', ho, hu, ⟨he, -⟩ | ⟨v', he, hv, hf⟩⟩
  · cases he
  · cases he
  · cases he
    exact ⟨hv, o, ho, hu, hf⟩

/-- A record with a known tag that is not well formed is refused for one of its fields. -/
theorem decode_of_not_wf {o : Opcode} (ho : r.opcode = .named o) (hwf : r.wf = false) :
    (∃ f, decode r = .error (.missingField f)) ∨
      ∃ f v, decode r = .error (.registerOutOfRange f v) := by
  cases hd : decode r with
  | ok i => simp [exists_decode_ok_iff.mp ⟨i, hd⟩] at hwf
  | error e =>
    rcases decode_error_cases hd with ⟨tag, htag, -⟩ | ⟨o', f, -, -, ⟨rfl, -⟩ | ⟨v, rfl, -⟩⟩
    · rw [ho] at htag
      cases htag
    · exact .inl ⟨f, rfl⟩
    · exact .inr ⟨f, v, rfl⟩

end Decoder

/-- Settles O4: a record decodes to `i` exactly when it agrees with `i`'s record in the used
fields, and `encode i` is such a record. -/
theorem decodingInvertsEncoding : Obligations.DecodingInvertsEncoding :=
  fun i => ⟨decode_encode i, fun _ => decode_ok_iff⟩

/-- Settles O5: the decoder's success, and then its refusals one by one. -/
theorem decoderNamesWhatIsWrong : Obligations.DecoderNamesWhatIsWrong :=
  fun _ => ⟨exists_decode_ok_iff, fun _ => decode_unknown_iff.symm, decode_ne_noBinaryEncoding,
    fun _ => decode_of_not_wf, fun _ => decode_missingField, fun _ _ => decode_registerOutOfRange⟩

/-- Settles O6: the eight records are what `encode` writes for their instructions. -/
theorem writtenOutRecordsDecode : Obligations.WrittenOutRecordsDecode :=
  ⟨decode_encode (.movc 2 3), decode_encode (.add 1 1 2), decode_encode (.cmp 2 0),
    decode_encode (.bnz (-12)), decode_encode (.store 1 3 0), decode_encode (.load 4 3 0),
    decode_encode (.str 9 1 4), decode_encode .halt⟩

section Construction

/-! ### The admission of a program (R85) -/

open Machine

/-- An admitted record stands for the decoded instruction and keeps the display text. -/
theorem admitRecord_ok {r : RawRecord} {a : Record} (h : admitRecord r = .ok a) :
    decode r = .ok a.instr ∧ a.mnemonic = r.mnemonic := by
  unfold admitRecord at h
  cases hd : decode r with
  | error e => rw [hd] at h; cases h
  | ok i =>
    rw [hd] at h
    cases h
    simp

theorem exists_admitRecord_ok_iff (r : RawRecord) :
    (∃ a, admitRecord r = .ok a) ↔ r.wf = true := by
  rw [← exists_decode_ok_iff]
  unfold admitRecord
  cases decode r <;> simp [Except.map]

/-- A program is admitted record by record, in order. -/
theorem admitProgram_ok_iff {p : List RawRecord} {records : List Record} :
    admitProgram p = .ok records ↔ List.Forall₂ (fun r a => admitRecord r = .ok a) p records := by
  induction p generalizing records with
  | nil => simp [admitProgram, eq_comm]
  | cons r rest ih =>
    simp only [admitProgram, List.forall₂_cons_left_iff, ← ih]
    cases admitRecord r with
    | error e => simp
    | ok a => cases admitProgram rest <;> simp [eq_comm]

theorem exists_admitProgram_ok_iff (p : List RawRecord) :
    (∃ records, admitProgram p = .ok records) ↔ ∀ r ∈ p, r.wf = true := by
  simp only [admitProgram_ok_iff]
  induction p with
  | nil => simp
  | cons r rest ih =>
    rw [List.forall_mem_cons, ← ih, ← exists_admitRecord_ok_iff]
    simp only [List.forall₂_cons_left_iff]
    constructor
    · rintro ⟨_, a, as, ha, has, -⟩
      exact ⟨⟨a, ha⟩, as, has⟩
    · rintro ⟨⟨a, ha⟩, as, has⟩
      exact ⟨_, a, as, ha, has, rfl⟩

/-- Construction names the record that admission refuses (R255). -/
theorem construct_of_error {p : List RawRecord} {e : DecodeError} (cfg : Config) (hp : p ≠ [])
    (h : admitProgram p = .error e) : construct cfg p = .error (.malformedEntry e) := by
  simp [construct, hp, h]

/-- With parameters in their domains, construction succeeds where admission does. -/
theorem construct_ok_iff {cfg : Config} {p : List RawRecord} {s : State}
    (hcfg : cfg.wf p.length = true) : construct cfg p = .ok s ↔
      p ≠ [] ∧ ∃ records, admitProgram p = .ok records ∧ s = State.init cfg records := by
  by_cases hp : p = []
  · simp [hp, construct]
  · cases h : admitProgram p with
    | error e => simp [construct_of_error cfg hp h]
    | ok records =>
      have hok : construct cfg p = .ok (State.init cfg records) := by
        simp [construct, hp, hcfg, h]
      simp [hok, hp, eq_comm]

end Construction

/-- Settles O3: construction succeeds where the program is admitted, which goes record by record. -/
theorem constructionAdmitsWellFormedPrograms :
    Obligations.ConstructionAdmitsWellFormedPrograms := by
  intro cfg p hcfg
  refine ⟨?_, ?_, fun hp => ?_, fun s hs => ?_⟩
  · simp only [construct_ok_iff hcfg]
    constructor
    · rintro ⟨_, hp, records, hr, -⟩
      exact ⟨hp, fun r h => wf_iff.mp ((exists_admitProgram_ok_iff p).mp ⟨records, hr⟩ r h)⟩
    · rintro ⟨hp, h⟩
      obtain ⟨records, hr⟩ := (exists_admitProgram_ok_iff p).mpr fun r hr => wf_iff.mpr (h r hr)
      exact ⟨_, hp, records, hr, rfl⟩
  · rintro rfl
    rfl
  · cases h : Machine.admitProgram p with
    | error e => exact .inr ⟨e, construct_of_error cfg hp h⟩
    | ok records => exact .inl ⟨_, (construct_ok_iff hcfg).mpr ⟨hp, records, h, rfl⟩⟩
  · obtain ⟨-, records, hr, rfl⟩ := (construct_ok_iff hcfg).mp hs
    have hall := admitProgram_ok_iff.mp hr
    refine ⟨records, rfl, hall.length_eq.symm, fun k r a hk ha => ?_⟩
    obtain ⟨hkp, rfl⟩ := List.getElem?_eq_some_iff.mp hk
    obtain ⟨hka, rfl⟩ := List.getElem?_eq_some_iff.mp ha
    exact admitRecord_ok (hall.get hkp hka)

end Sys2Proof

namespace Sys2Proof.Machine

section HazardTable

/-! ### The hazard-class table in each stage (R89) -/

variable {s t : State} {i : Instr}

theorem State.not_sourcesReady {a b : Option Reg} {r : Reg} (hr : a = some r ∨ b = some r)
    (h : s.scoreboard.ready r = false) : ¬s.SourcesReady a b := by
  rintro ⟨ha, hb⟩
  rcases hr with rfl | rfl
  · simp [h] at ha
  · simp [h] at hb

theorem State.sourcesReady_of_forall {a b : Option Reg}
    (h : ∀ r, a = some r ∨ b = some r → s.scoreboard.ready r = true) : s.SourcesReady a b := by
  constructor
  · cases a with
    | none => rfl
    | some r => exact h r (.inl rfl)
  · cases b with
    | none => rfl
    | some r => exact h r (.inr rfl)

/-- Decode issues or stalls by the table's sources and destination (R112 to R114). -/
theorem issuesOrStalls (i : Instr) (s : State) : IssuesOrStalls i i.src1 i.src2 i.dest s := by
  intro hs
  rw [exec_decode i s hs]
  constructor
  · intro hready
    rw [State.decodeWith_issue (State.sourcesReady_of_forall hready)]
    cases i.dest <;> rfl
  · rintro ⟨r, hr, hnot⟩
    rw [State.decodeWith_stall (State.not_sourcesReady hr hnot)]
    rfl

/-- Writeback writes and restores the table's destination (R120, R121). -/
theorem writesBack (hi : i ≠ .halt) (s : State) : WritesBack i i.dest s := by
  intro hs
  rw [exec_writeback i s hs, if_neg hi]
  cases i.dest <;> rfl

/-- Without a destination, Writeback leaves the registers and the scoreboard alone. -/
theorem exec_writeback_frame (hs : s.stage = .writeback) (h : exec i s = .next t)
    (hd : i.dest = none) : t.x = s.x ∧ t.scoreboard = s.scoreboard := by
  rw [exec_writeback i s hs, hd] at h
  cases h
  split <;> exact ⟨rfl, rfl⟩

/-- A signed index in range names its cell (R61). -/
theorem State.cellIndex_of_lt {a : Word} {k : Nat} (hk : (k : Int) = a.toInt)
    (hlt : k < s.cfg.dmemSize) : s.cellIndex a = some k := by
  unfold State.cellIndex
  rw [← hk, if_pos (by omega), Int.toNat_natCast]

/-- Memory stores the table's store-data register (R119, R201). -/
theorem storesCell {r : Reg} (hr : i.storeData = some r) (s : State) : StoresCell i r s := by
  intro hs
  have hexec : exec i s = .next (s.memoryStore r) := by
    rw [exec_memory i s hs]
    cases i <;> cases hr <;> rfl
  constructor
  · intro k hk hlt hwf
    refine ⟨s.dmem.write k (s.reg r), s.dmem.write_wf _ _ hwf, s.dmem.read_write_self _ _ hwf,
      fun j hj => s.dmem.read_write_other _ _ _ hj.symm, ?_⟩
    rw [hexec, State.memoryStore, State.cellIndex_of_lt hk hlt]
    rfl
  · intro hrange
    rw [RaisesFault, hexec, State.memoryStore, (s.cellIndex_none_iff _).mpr hrange]
    rfl

theorem State.memoryLoad_dmem (s : State) : s.memoryLoad.dmem = s.dmem := by
  rcases s.memoryLoad_cases with ⟨-, e⟩ | ⟨k, -, e⟩ <;> rw [e] <;> rfl

/-- Without a store-data register, Memory leaves data memory alone. -/
theorem exec_memory_frame (hs : s.stage = .memory) (h : exec i s = .next t)
    (hd : i.storeData = none) : t.dmem = s.dmem := by
  rw [exec_memory i s hs] at h
  cases h
  cases i with
  | load | ldr => exact s.memoryLoad_dmem
  | store | str => cases hd
  | _ => rfl

theorem State.executeBranch_z (s : State) (c : Bool) (imm : Word) :
    (s.executeBranch c imm).z = s.z := by
  cases c <;> rfl

theorem State.executeCompare_z (s : State) :
    s.executeCompare.z = decide (s.e.sourceValue1 = s.e.sourceValue2) := by
  rcases s.executeCompare_cases with ⟨-, e⟩ | ⟨-, e⟩ <;> rw [e] <;> rfl

/-- What Execute leaves in Z, by the table's column and the destination (R25, R117). -/
def ZAsInTable (i : Instr) (s t : State) : Prop :=
  (i.writesZ = false → t.z = s.z) ∧
  (i.writesZ = true → i.dest ≠ none → t.z = decide (t.m.resultValue = 0)) ∧
  (∀ rd imm, i = .movc rd imm → t.z = decide (imm = 0)) ∧
  (i.writesZ = true → i.dest = none → t.z = decide (s.e.sourceValue1 = s.e.sourceValue2))

/-- Execute leaves Z as the table says, unless DIV raises its fault. -/
theorem exec_execute_z (hs : s.stage = .execute) (h : exec i s = .next t)
    (ht : t.status = .running) : ZAsInTable i s t := by
  rw [exec_execute i s hs] at h
  cases h
  cases i with
  | add | sub | mul | and | or | xor => exact ⟨nofun, fun _ _ => rfl, nofun, nofun⟩
  | div =>
    dsimp only at ht ⊢
    split at ht
    · simp at ht
    · exact ⟨nofun, fun _ _ => rfl, nofun, nofun⟩
  | movc rd imm => exact ⟨nofun, fun _ _ => rfl, fun _ _ h => by cases h; rfl, nofun⟩
  | cmp => exact ⟨nofun, fun _ h => absurd rfl h, nofun, fun _ _ => s.executeCompare_z⟩
  | bz | bnz => exact ⟨fun _ => s.executeBranch_z _ _, nofun, nofun, nofun⟩
  | addl | subl | load | store | ldr | str | halt => exact ⟨fun _ => rfl, nofun, nofun, nofun⟩

end HazardTable

/-- Settles O17: the table's sources and destination in Decode and Writeback, its store data in
Memory, its Z column in Execute. -/
theorem hazardTableGovernsEveryInstruction : Obligations.HazardTableGovernsEveryInstruction :=
  fun i s => ⟨issuesOrStalls i s, fun hi => writesBack hi s,
    fun _ hs h hd => exec_writeback_frame hs h hd, fun _ hr => storesCell hr s,
    fun _ hs h hd => exec_memory_frame hs h hd,
    fun _ hs _ h ht => exec_execute_z hs h ht⟩

end Sys2Proof.Machine

/-!
PROOFS. The statements about the pipeline (40_pipeline.md). First what a taken branch does and what
Execute leaves alone without one, and the control bits from stage to stage; then the invariants that
rest on them.
-/

namespace Sys2Proof.Machine

section Stages

/-! ### The stages on the latch they find -/

variable {s : State} {i : Instr}

/-- The instruction in a latch has the opcode in the latch's opcode field (R84). -/
theorem Latch.opcode_of_holds {l : Latch} {i : Instr} (h : l.holds i) :
    l.opcode = .known i.opcode := by
  obtain ⟨-, hi⟩ := h
  cases ho : l.opcode with
  | known o =>
    rw [Latch.instr_of_known l o ho, Option.some.injEq] at hi
    rw [← hi, opcode_instr_record]
    rfl
  | invalid p => simp [Latch.instr_of_invalid l p ho] at hi

/-- A latch holds one instruction. -/
theorem Latch.holds_unique {l : Latch} {i j : Instr} (hi : l.holds i) (hj : l.holds j) : i = j :=
  Option.some.inj (hi.2.symm.trans hj.2)

theorem writebackStage_of_holds (h : s.w.holds i) : writebackStage s = exec i s := by
  simp only [writebackStage, h.1, h.2, if_true]

theorem memoryStage_of_holds (h : s.m.holds i) : memoryStage s = exec i s := by
  simp only [memoryStage, h.1, h.2, if_true]

theorem executeStage_of_holds (h : s.e.holds i) : executeStage s = exec i s := by
  simp only [executeStage, h.1, h.2, if_true]

theorem executeStage_of_dead (h : s.e.hasInstruction = false) :
    executeStage s = .next s.passExecute := by
  simp [executeStage, h]

theorem decodeStage_of_holds (h : s.d.holds i) : decodeStage s = exec i s := by
  have hrec := Latch.recordOf_instr_of_holds h
  simp only [decodeStage, h.1, Latch.opcode_of_holds h, hrec, if_true]

theorem forwardStage_of_instr (h : s.f.instr = some i) : forwardStage s = exec i s := by
  simp only [forwardStage, h]

/-- A stage that leaves the core running hands its instruction on and empties its latch. -/
theorem memoryStage_moves_of_running {t : State} (hs : s.stage = .memory)
    (h : memoryStage s = .next t) (hrun : t.status = .running) :
    t.w.withoutValues = s.m.withoutValues ∧ t.m.hasInstruction = false := by
  rcases memoryStage_moves hs h with hmoved | ⟨hstop, -⟩
  · exact hmoved
  · exact absurd hrun hstop

theorem executeStage_moves_of_running {t : State} (hs : s.stage = .execute)
    (h : executeStage s = .next t) (hrun : t.status = .running) :
    t.m.withoutValues = s.e.withoutValues ∧ t.e.hasInstruction = false := by
  rcases executeStage_moves hs h with hmoved | ⟨hstop, -⟩
  · exact hmoved
  · exact absurd hrun hstop

end Stages

section Branches

/-! ### Taken branches (R118) -/

variable {s t : State}

theorem Latch.TakesBranch.live {l : Latch} (h : l.TakesBranch s) : l.hasInstruction = true := by
  rcases h with ⟨imm, hl, -⟩ | ⟨imm, hl, -⟩ | ⟨rs1, rs2, hl, -⟩ <;> exact hl.1

theorem Latch.TakesBranch.not_halt {l : Latch} (h : l.TakesBranch s) : ¬l.holdsHalt := by
  intro hh
  rcases h with ⟨imm, hi, -⟩ | ⟨imm, hi, -⟩ | ⟨rs1, rs2, hi, -⟩ <;>
    exact absurd (Latch.holds_unique hi hh) nofun

/-- What Execute leaves when its latch takes a branch: CMP has found its operands equal, and the
others leave Z alone (R118, R172). -/
def State.branchTaken (s : State) : State :=
  ((s.setZ (s.z || decide (s.e.opcode = .known .cmp))).takeBranch (s.e.pc + s.e.imm)).passExecute

theorem executeStage_of_takesBranch (hs : s.stage = .execute) (h : s.e.TakesBranch s) :
    executeStage s = .next s.branchTaken := by
  unfold State.branchTaken
  rcases h with ⟨imm, hi, hz⟩ | ⟨imm, hi, hz⟩ | ⟨rs1, rs2, hi, hcfg, heq⟩
  all_goals
    have himm := Latch.recordOf_instr_of_holds hi
    rw [executeStage_of_holds hi, exec_execute _ s hs, Latch.opcode_of_holds hi]
    congr 1
  · obtain rfl : s.e.imm = imm := Instr.bz.inj himm
    simp only [State.executeBranch, hz, branchTarget_eq]
    exact congrArg (fun z => ((s.setZ z).takeBranch _).passExecute) hz
  · obtain rfl : s.e.imm = imm := Instr.bnz.inj himm
    simp only [State.executeBranch, hz, branchTarget_eq]
    exact congrArg (fun z => ((s.setZ z).takeBranch _).passExecute) hz
  · rcases s.executeCompare_cases with ⟨-, e⟩ | ⟨hn, -⟩
    · rw [e]
      simp [heq, Instr.opcode]
    · simp [hcfg, heq] at hn

/-- Execute that takes no branch leaves Fetch, Decode and the PC alone (R116). -/
theorem executeStage_of_not_takesBranch (hs : s.stage = .execute) (h : executeStage s = .next t)
    (hb : ¬s.e.TakesBranch s) :
    t.pc = s.pc ∧ t.redirect = s.redirect ∧ t.d = s.d ∧ t.f = s.f := by
  unfold executeStage at h
  split at h
  · next hl =>
    split at h
    · next i hi =>
      rw [exec_execute i s hs] at h
      cases h
      have untaken {c : Bool} {imm : Word} (hc : c = true → s.e.TakesBranch s) :
          s.executeBranch c imm = s.passExecute := by
        rcases s.executeBranch_cases c imm with ⟨h, -⟩ | ⟨-, e⟩
        · exact absurd (hc h) hb
        · exact e
      cases i with
      | bz imm =>
        dsimp only
        rw [untaken fun hz => .inl ⟨imm, ⟨hl, hi⟩, hz⟩]
        exact ⟨rfl, rfl, rfl, rfl⟩
      | bnz imm =>
        dsimp only
        rw [untaken fun hz => .inr (.inl ⟨imm, ⟨hl, hi⟩, by simpa using hz⟩)]
        exact ⟨rfl, rfl, rfl, rfl⟩
      | cmp rs1 rs2 =>
        rcases s.executeCompare_cases with ⟨hc, -⟩ | ⟨-, e⟩
        · exact absurd (.inr (.inr ⟨rs1, rs2, ⟨hl, hi⟩, by simpa using hc⟩)) hb
        · dsimp only
          rw [e]
          exact ⟨rfl, rfl, rfl, rfl⟩
      | div rd rs1 rs2 => dsimp only; split <;> exact ⟨rfl, rfl, rfl, rfl⟩
      | _ => exact ⟨rfl, rfl, rfl, rfl⟩
    · cases h
  · cases h; exact ⟨rfl, rfl, rfl, rfl⟩

end Branches

section Control

/-! ### The control bits inside a cycle (R127, R128)

Writeback and Memory touch no control bit. The two structures say what Execute and Decode leave for
the stage after them; Fetch leads back to `ControlBits`. -/

/-- The control bits after Execute: nothing is live there, and a pending redirect has flushed
Decode. -/
structure ControlAfterExecute (s : State) : Prop where
  stalls_agree : s.fIsStalled = s.dIsStalled
  stalled_live : s.dIsStalled = true → s.d.hasInstruction = true
  held : s.fHeld = true → s.f.hasInstruction = false ∧ s.fIsStalled = true
  flushed : s.redirect = true → s.d.hasInstruction = false
  execute_dead : s.e.hasInstruction = false

/-- The control bits after Decode: its latch is live exactly when it stalls, and an issued
instruction or a pending redirect leaves it empty. -/
structure ControlAfterDecode (s : State) : Prop where
  stalls_agree : s.fIsStalled = s.dIsStalled
  live_iff_stalled : s.d.hasInstruction = s.dIsStalled
  held : s.fHeld = true → s.f.hasInstruction = false
  issued : s.e.hasInstruction = true → s.d.hasInstruction = false
  flushed : s.redirect = true →
    s.d.hasInstruction = false ∧ s.e.hasInstruction = false ∧ s.fHeld = false

variable {s t : State}

/-- Neither structure rests on the stage under evaluation. -/
theorem ControlAfterExecute.withStage (h : ControlAfterExecute s) (st : Stage) :
    ControlAfterExecute { s with stage := st } :=
  { h with }

theorem ControlAfterDecode.withStage (h : ControlAfterDecode s) (st : Stage) :
    ControlAfterDecode { s with stage := st } :=
  { h with }

theorem writebackStage_keeps_controlBits (hs : s.stage = .writeback)
    (h : writebackStage s = .next t) (hc : ControlBits s) : ControlBits t := by
  rw [writebackStage_frame hs h]
  exact hc

theorem memoryStage_keeps_controlBits (hs : s.stage = .memory) (h : memoryStage s = .next t)
    (hc : ControlBits s) : ControlBits t := by
  rw [memoryStage_frame hs h]
  exact hc

/-- Execute establishes what Decode needs. -/
theorem executeStage_control (hs : s.stage = .execute) (h : executeStage s = .next t)
    (hc : ControlBits s) (hrun : t.status = .running) : ControlAfterExecute t := by
  obtain ⟨hst, hlive, hheld, hred, he⟩ := hc
  by_cases hb : s.e.TakesBranch s
  · rw [executeStage_of_takesBranch hs hb] at h
    cases h
    obtain ⟨hds, -, hfh⟩ := he hb.live
    exact ⟨hst, fun h => absurd (hds.symm.trans h) nofun,
      fun h => absurd (hfh.symm.trans h) nofun, fun _ => rfl, rfl⟩
  · obtain ⟨-, hr, hd, hf⟩ := executeStage_of_not_takesBranch hs h hb
    have hmoves := executeStage_moves hs h
    rw [executeStage_frame hs h, hr, hd, hf]
    rcases hmoves with ⟨-, hdead⟩ | ⟨hstop, -, -⟩
    · exact ⟨hst, hlive, hheld, fun h => absurd (hred.symm.trans h) nofun, hdead⟩
    · exact absurd hrun hstop

/-- Decode establishes what Fetch needs. -/
theorem decodeStage_control (hs : s.stage = .decode) (h : decodeStage s = .next t)
    (hc : ControlAfterExecute s) (hrun : t.status = .running) : ControlAfterDecode t := by
  obtain ⟨hst, hlive, hheld, hflush, he⟩ := hc
  rcases decodeStage_cases hs h with ⟨hd, e⟩ | ⟨p, -, -, rfl⟩ | ⟨i, hi, rfl⟩
  · subst t
    have hds : s.dIsStalled = false := Bool.eq_false_of_not_eq_true fun hds =>
      absurd ((hlive hds).symm.trans hd) nofun
    have hh : s.fHeld = false := Bool.eq_false_of_not_eq_true fun hh =>
      absurd ((hheld hh).2.symm.trans (hst.trans hds)) nofun
    exact ⟨hst, hd.trans hds.symm, fun hh => (hheld hh).1, fun _ => hd, fun _ => ⟨hd, he, hh⟩⟩
  · simp at hrun
  · have hred : s.redirect = true → False := fun hr => absurd (hi.1.symm.trans (hflush hr)) nofun
    rcases s.decodeWith_cases i.src1 i.src2 i.dest with ⟨-, e⟩ | ⟨-, e⟩ <;> rw [e]
    · refine ⟨rfl, rfl, fun hh => ?_, fun _ => rfl, fun hr => ?_⟩
      · exact (hheld (by simpa using hh)).1 ▸ by simp
      · exact (hred (by simpa using hr)).elim
    · exact ⟨rfl, hi.1, fun hh => (hheld hh).1, fun h => absurd (he.symm.trans h) nofun,
        fun hr => (hred hr).elim⟩

/-- Fetch leads back to the control bits of a cycle boundary. -/
theorem fetchStage_control (hs : s.stage = .fetch) (h : fetchStage s = .next t)
    (hc : ControlAfterDecode s) : ControlBits t := by
  obtain ⟨hst, hlive, hheld, hissue, hflush⟩ := hc
  have hdead (hf : s.f.hasInstruction = true) : s.fHeld = false :=
    Bool.eq_false_of_not_eq_true fun hh => absurd ((hheld hh).symm.trans hf) nofun
  have hunstalled (he : s.e.hasInstruction = true) : s.dIsStalled = false :=
    hlive.symm.trans (hissue he)
  rcases fetchStage_cases hs h with ⟨hr, rfl⟩ | ⟨hr, hf, hf', rfl⟩ | ⟨hr, hf, hf', rfl⟩ |
    ⟨hr, hf, hf', hh, rfl⟩ | ⟨hr, hf, hidle, rfl⟩
  · obtain ⟨hd, he, hh⟩ := hflush hr
    exact ⟨hst, fun h => hlive.trans h, fun h => absurd (hh.symm.trans h) nofun, rfl,
      fun h => absurd (he.symm.trans h) nofun⟩
  · exact ⟨hst, fun h => hlive.trans h, fun _ => ⟨rfl, hf'⟩, hr, fun h =>
      absurd ((hunstalled h).symm.trans (hst.symm.trans hf')) nofun⟩
  · have hh := hdead hf
    split <;> exact ⟨rfl, fun h => absurd (hf'.symm.trans h) nofun,
      fun h => absurd (hh.symm.trans h) nofun, hr, fun _ => ⟨hf', hf', hh⟩⟩
  · split <;> exact ⟨rfl, fun h => absurd (hf'.symm.trans h) nofun, nofun, hr,
      fun _ => ⟨hf', hf', rfl⟩⟩
  · refine ⟨hst, fun h => hlive.trans h, fun h => ⟨hf, ?_⟩, hr, fun he => ?_⟩
    · exact hidle.resolve_right fun hh => absurd (hh.symm.trans h) nofun
    · have hds := hunstalled he
      have hfs := hst.trans hds
      exact ⟨hds, hfs, hidle.resolve_left fun h => absurd (h.symm.trans hfs) nofun⟩

end Control

section Progress

/-! ### Going on and stopping (R101, R102, R250)

Each stage leaves the status and the clock alone, or it ends the cycle with nothing else changed but
what a retired HALT leaves. -/

variable {s t : State}

theorem writebackStage_progress (hs : s.stage = .writeback) (h : writebackStage s = .next t) :
    (¬s.w.holdsHalt ∧ t.status = s.status ∧ t.clock = s.clock) ∨
    (s.w.holdsHalt ∧ t = s.retire.haltCore) := by
  rcases writebackStage_cases hs h with ⟨hw, rfl⟩ | ⟨hw, rfl⟩ | ⟨i, hw, hi, rfl⟩
  · exact .inl ⟨fun hh => absurd (hw.symm.trans hh.1) nofun, rfl, rfl⟩
  · exact .inr ⟨hw, rfl⟩
  · exact .inl ⟨fun hh => hi (Option.some.inj (hw.2.symm.trans hh.2)), by simp, by simp⟩

theorem memoryStage_progress (hs : s.stage = .memory) (h : memoryStage s = .next t) :
    (t.status = s.status ∧ t.clock = s.clock) ∨
    t = s.raiseFault .dataAddressOutOfRange s.m.memoryAddress := by
  rcases memoryStage_cases hs h with ⟨-, rfl⟩ | ⟨i, -, ⟨-, rfl⟩ | ⟨k, -, -, -, rfl⟩ |
    ⟨k, r, -, -, rfl⟩ | ⟨-, -, rfl⟩⟩
  case inr.inr.inr.inr => exact .inr rfl
  all_goals exact .inl ⟨rfl, rfl⟩

/-- DIV's two faults (R251, R252). -/
theorem divWord_error {a b : Word} {k : FaultKind} (h : divWord a b = .error k) :
    k = .divideByZero ∨ k = .divideOverflow := by
  unfold divWord at h
  split at h
  · cases h; exact .inl rfl
  · split at h <;> cases h
    exact .inr rfl

theorem executeStage_progress (hs : s.stage = .execute) (h : executeStage s = .next t) :
    (t.status = s.status ∧ t.clock = s.clock) ∨
    ∃ k, (k = .divideByZero ∨ k = .divideOverflow) ∧ t = s.raiseFault k s.e.pc := by
  rcases executeStage_cases hs h with ⟨-, rfl⟩ | ⟨i, -, ⟨v, a, z, -, rfl⟩ | ⟨target, z, -, rfl⟩ |
    ⟨k, -, hk, rfl⟩⟩
  case inr.inr.inr => exact .inr ⟨k, divWord_error hk, rfl⟩
  all_goals exact .inl ⟨rfl, rfl⟩

theorem decodeStage_progress (hs : s.stage = .decode) (h : decodeStage s = .next t) :
    (t.status = s.status ∧ t.clock = s.clock) ∨
    ∃ p : Poison, s.d.hasInstruction = true ∧ t = s.raiseFault p.faultKind s.d.pc := by
  rcases decodeStage_cases hs h with ⟨-, rfl⟩ | ⟨p, hd, -, rfl⟩ | ⟨i, -, rfl⟩
  · exact .inl ⟨rfl, rfl⟩
  · exact .inr ⟨p, hd, rfl⟩
  · rcases s.decodeWith_cases i.src1 i.src2 i.dest with ⟨-, e⟩ | ⟨-, e⟩ <;> rw [e]
    · exact .inl ⟨by simp, by simp⟩
    · exact .inl ⟨rfl, rfl⟩

theorem fetchStage_progress (hs : s.stage = .fetch) (h : fetchStage s = .next t) :
    t.status = s.status ∧ t.clock = s.clock := by
  rw [fetchStage_frame hs h]
  exact ⟨rfl, rfl⟩

end Progress

/-- Settles O39: from stage to stage the control bits are as the next stage needs them, and a stage
that stops the core touches none. -/
theorem stepKeepsControlBits : Obligations.StepKeepsControlBits := by
  intro s t hc h
  rcases step_cases h with ⟨-, rfl⟩ | ⟨-, -, rfl⟩ | ⟨⟨hrun, -⟩, hcycle⟩
  · exact hc
  · exact hc
  suffices hend : ∃ u, ControlBits u ∧ t = { u with stage := .writeback } by
    obtain ⟨u, hu, rfl⟩ := hend
    exact hu
  refine cycle_rule (P0 := ControlBits) (P1 := ControlBits) (P2 := ControlBits)
    (P3 := ControlAfterExecute) (P4 := ControlAfterDecode) (P5 := ControlBits) (Q := ControlBits)
    ?_ ?_ ?_ ?_ ?_ (fun u hu _ => hu) hc hrun hcycle
  · intro u v hu _ hs e
    have hv := writebackStage_keeps_controlBits hs e hu
    exact ⟨fun _ => hv, fun _ => hv⟩
  · intro u v hu _ hs e
    have hv := memoryStage_keeps_controlBits hs e hu
    exact ⟨fun _ => hv, fun _ => hv⟩
  · intro u v hu hur hs e
    refine ⟨fun hv => ?_, fun hv => ?_⟩
    · exact (executeStage_control hs e hu hv).withStage _
    · rcases executeStage_progress hs e with ⟨hst, -⟩ | ⟨k, -, rfl⟩
      · exact absurd (hst.trans hur) hv
      · exact hu
  · intro u v hu hur hs e
    refine ⟨fun hv => ?_, fun hv => ?_⟩
    · exact (decodeStage_control hs e hu hv).withStage _
    · rcases decodeStage_progress hs e with ⟨hst, -⟩ | ⟨p, hd, rfl⟩
      · exact absurd (hst.trans hur) hv
      · have hred : u.redirect = false := by
          cases hr : u.redirect with
          | false => rfl
          | true => exact absurd (hd.symm.trans (hu.flushed hr)) nofun
        exact ⟨hu.stalls_agree, hu.stalled_live, hu.held, hred,
          fun he => absurd (hu.execute_dead.symm.trans he) nofun⟩
  · intro u v hu _ hs e
    have hv := fetchStage_control hs e hu
    exact ⟨fun _ => hv, fun _ => hv⟩

section Halt

/-! ### Nothing behind a HALT (R107, R129) -/

variable {s t : State}

theorem Latch.not_holds_of_dead {l : Latch} {i : Instr} (h : l.hasInstruction = false) :
    ¬l.holds i := fun hi => absurd (h.symm.trans hi.1) nofun

/-- What a latch holds does not rest on the values computed for it. -/
theorem Latch.holds_of_withoutValues {l l' : Latch} {i : Instr}
    (h : l'.withoutValues = l.withoutValues) (hi : l'.holds i) : l.holds i := by
  change l.withoutValues.holds i
  rw [← h]
  exact hi

theorem writebackStage_keeps_nothingBehindHalt (hs : s.stage = .writeback)
    (h : writebackStage s = .next t) (hi : NothingBehindHalt s) : NothingBehindHalt t := by
  obtain ⟨hd, he, hm, -⟩ := hi
  have hdead := writebackStage_w_dead hs h
  rw [writebackStage_frame hs h]
  exact ⟨hd, he, hm, fun hw => absurd hw (Latch.not_holds_of_dead hdead)⟩

theorem memoryStage_keeps_nothingBehindHalt (hs : s.stage = .memory)
    (h : memoryStage s = .next t) (hi : NothingBehindHalt s) : NothingBehindHalt t := by
  obtain ⟨hd, he, hm, hw⟩ := hi
  rcases memoryStage_moves hs h with ⟨hmoved, hdead⟩ | ⟨-, hm', hw'⟩ <;>
    rw [memoryStage_frame hs h]
  · refine ⟨hd, he, fun hh => absurd hh (Latch.not_holds_of_dead hdead), fun hh => ?_⟩
    obtain ⟨hf, hdd, hed⟩ := hm (Latch.holds_of_withoutValues hmoved hh)
    exact ⟨hf, hdd, hed, hdead⟩
  · rw [hm', hw']
    exact ⟨hd, he, hm, hw⟩

/-- A branch that Execute takes has no HALT before it, and Decode no HALT after it. -/
theorem executeStage_keeps_nothingBehindHalt (hs : s.stage = .execute)
    (h : executeStage s = .next t) (hi : NothingBehindHalt s) : NothingBehindHalt t := by
  obtain ⟨hd, he, hm, hw⟩ := hi
  by_cases hb : s.e.TakesBranch s
  · rw [executeStage_of_takesBranch hs hb] at h
    cases h
    refine ⟨nofun, nofun, fun hh => absurd hh hb.not_halt, fun hh => ?_⟩
    obtain ⟨-, -, hed, -⟩ := hw hh
    exact absurd (hed.symm.trans hb.live) nofun
  · obtain ⟨-, -, hd', hf'⟩ := executeStage_of_not_takesBranch hs h hb
    rcases executeStage_moves hs h with ⟨hmoved, hdead⟩ | ⟨-, he', hm'⟩ <;>
      rw [executeStage_frame hs h, hd', hf']
    · refine ⟨hd, fun hh => absurd hh (Latch.not_holds_of_dead hdead), fun hh => ?_, fun hh => ?_⟩
      · obtain ⟨hf, hdd⟩ := he (Latch.holds_of_withoutValues hmoved hh)
        exact ⟨hf, hdd, hdead⟩
      · obtain ⟨hf, hdd, hed, -⟩ := hw hh
        exact ⟨hf, hdd, hdead, (Latch.hasInstruction_of_withoutValues hmoved).trans hed⟩
    · rw [he', hm']
      exact ⟨hd, he, hm, hw⟩

theorem decodeStage_keeps_nothingBehindHalt (hs : s.stage = .decode)
    (h : decodeStage s = .next t) (hi : NothingBehindHalt s) : NothingBehindHalt t := by
  obtain ⟨hd, he, hm, hw⟩ := hi
  rcases decodeStage_moves hs h with ⟨hmoved, hdead, -⟩ | ⟨hd', he', -⟩ <;>
    rw [decodeStage_frame hs h]
  · have hlive := Latch.hasInstruction_of_withoutValues hmoved
    refine ⟨fun hh => absurd hh (Latch.not_holds_of_dead hdead),
      fun hh => ⟨hd (Latch.holds_of_withoutValues hmoved hh), hdead⟩, fun hh => ?_, fun hh => ?_⟩
    · obtain ⟨hf, hdd, -⟩ := hm hh
      exact ⟨hf, hdead, hlive.trans hdd⟩
    · obtain ⟨hf, hdd, -, hmd⟩ := hw hh
      exact ⟨hf, hdead, hlive.trans hdd, hmd⟩
  · rw [hd', he']
    exact ⟨hd, he, hm, hw⟩

/-- Where fetching is not disabled, no HALT is in flight. -/
theorem NothingBehindHalt.no_halt (hi : NothingBehindHalt s) (hf : ¬FetchDisabled s) :
    ¬s.d.holdsHalt ∧ ¬s.e.holdsHalt ∧ ¬s.m.holdsHalt ∧ ¬s.w.holdsHalt := by
  obtain ⟨hd, he, hm, hw⟩ := hi
  exact ⟨fun h => hf (hd h), fun h => hf (he h).1, fun h => hf (hm h).1, fun h => hf (hw h).1⟩

/-- Fetch forwards only where fetching is enabled, and disables it with the HALT it forwards. -/
theorem fetchStage_keeps_nothingBehindHalt (hs : s.stage = .fetch) (h : fetchStage s = .next t)
    (hc : ControlAfterDecode s) (hi : NothingBehindHalt s) : NothingBehindHalt t := by
  have enabled (hf : s.f.hasInstruction = true ∨ s.fHeld = true) :=
    hi.no_halt fun ⟨hf', hh'⟩ => hf.elim (fun h => absurd (hf'.symm.trans h) nofun)
      (fun h => absurd (hh'.symm.trans h) nofun)
  rcases fetchStage_cases hs h with ⟨-, rfl⟩ | ⟨-, hf, -, rfl⟩ | ⟨-, hf, -, rfl⟩ |
    ⟨-, -, -, hh, rfl⟩ | ⟨-, -, -, rfl⟩
  · exact hi
  · obtain ⟨nd, ne, nm, nw⟩ := enabled (.inl hf)
    exact ⟨fun h => absurd h nd, fun h => absurd h ne, fun h => absurd h nm, fun h => absurd h nw⟩
  · obtain ⟨-, ne, nm, nw⟩ := enabled (.inl hf)
    have hh : s.fHeld = false := Bool.eq_false_of_not_eq_true fun hh =>
      absurd ((hc.held hh).symm.trans hf) nofun
    split
    · exact ⟨fun _ => ⟨rfl, hh⟩, fun h => absurd h ne, fun h => absurd h nm, fun h => absurd h nw⟩
    · next hn =>
      exact ⟨fun h => absurd h.2 hn, fun h => absurd h ne, fun h => absurd h nm,
        fun h => absurd h nw⟩
  · obtain ⟨-, ne, nm, nw⟩ := enabled (.inr hh)
    split
    · exact ⟨fun _ => ⟨rfl, rfl⟩, fun h => absurd h ne, fun h => absurd h nm, fun h => absurd h nw⟩
    · next hn =>
      exact ⟨fun h => absurd h.2 hn, fun h => absurd h ne, fun h => absurd h nm,
        fun h => absurd h nw⟩
  · exact hi

end Halt

/-- Settles O41: each stage keeps the invariant, with the control bits as the stages before it left
them. -/
theorem stepKeepsNothingBehindHalt : Obligations.StepKeepsNothingBehindHalt := by
  intro s t hc hi h
  refine step_carries (Q := NothingBehindHalt) (R0 := ControlBits) (R1 := ControlBits)
    (R2 := ControlBits) (R3 := ControlAfterExecute) (R4 := ControlAfterDecode)
    (fun _ _ _ _ h => h) ?_ ?_ ?_ ?_ ?_ hi hc h
  · exact fun u v hu hr hs e => ⟨writebackStage_keeps_nothingBehindHalt hs e hu,
      fun _ => writebackStage_keeps_controlBits (t := v) hs e hr⟩
  · exact fun u v hu hr hs e => ⟨memoryStage_keeps_nothingBehindHalt hs e hu,
      fun _ => memoryStage_keeps_controlBits (t := v) hs e hr⟩
  · exact fun u v hu hr hs e => ⟨executeStage_keeps_nothingBehindHalt hs e hu,
      fun hv => (executeStage_control hs e hr hv).withStage _⟩
  · exact fun u v hu hr hs e => ⟨decodeStage_keeps_nothingBehindHalt hs e hu,
      fun hv => (decodeStage_control hs e hr hv).withStage _⟩
  · exact fun u v hu hr hs e => fetchStage_keeps_nothingBehindHalt hs e hr hu

section WriterCounts

/-! ### The counts of writers in flight (R23, R123) -/

variable {s t : State}

/-- The pending writers that the scoreboard counts for a register; Flag counts none. -/
def Scoreboard.pending (b : Scoreboard) (r : Reg) : Nat :=
  match b with
  | .flag _ => 0
  | .counter pend => pend[r]

theorem Scoreboard.ready_iff_pending {b : Scoreboard} (hb : b.kind = .counter) (r : Reg) :
    b.ready r = true ↔ b.pending r = 0 := by
  cases b with
  | flag valid => cases hb
  | counter pend => simp [ready, pending]

/-- Whether the live instruction of a latch writes a register, as a count. -/
def Latch.writes (l : Latch) (r : Reg) : Nat := if l.dest = some r then 1 else 0

theorem Latch.writes_of_dead {l : Latch} (h : l.hasInstruction = false) (r : Reg) :
    l.writes r = 0 := by simp [Latch.writes, Latch.dest_of_dead h]

theorem Latch.writes_of_withoutValues {l l' : Latch} (h : l'.withoutValues = l.withoutValues)
    (r : Reg) : l'.writes r = l.writes r := by
  simp only [Latch.writes, Latch.dest_of_withoutValues h]

theorem State.inFlight_eq (s : State) (r : Reg) :
    s.inFlight r = s.e.writes r + s.m.writes r + s.w.writes r := by
  simp only [State.inFlight, Latch.writes, List.countP_cons, List.countP_nil, beq_iff_eq]
  omega

theorem countsWriters_iff (s : State) : CountsWriters s ↔
    (s.scoreboard.kind = .counter → ∀ r, s.scoreboard.pending r = s.inFlight r) := by
  unfold CountsWriters
  cases s.scoreboard with
  | flag valid => simp [Scoreboard.kind]
  | counter pend => simp [Scoreboard.kind, Scoreboard.pending]

/-- Issuing a writer counts it. -/
theorem Scoreboard.pending_invalidate {b : Scoreboard} (hb : b.kind = .counter) (l : Latch)
    (r : Reg) : (l.dest.elim b b.invalidate).pending r = b.pending r + l.writes r := by
  unfold Latch.writes
  cases b with
  | flag valid => cases hb
  | counter pend =>
    cases l.dest with
    | none => rfl
    | some rd =>
      by_cases h : rd = r
      · subst h; simp [Scoreboard.invalidate, pending]
      · simp [Scoreboard.invalidate, pending, Fin.val_inj, h]

/-- Retiring a writer stops counting it. -/
theorem Scoreboard.pending_restore {b : Scoreboard} (hb : b.kind = .counter) (l : Latch)
    (r : Reg) : (l.dest.elim b b.restore).pending r = b.pending r - l.writes r := by
  unfold Latch.writes
  cases b with
  | flag valid => cases hb
  | counter pend =>
    cases l.dest with
    | none => rfl
    | some rd =>
      by_cases h : rd = r
      · subst h; simp [Scoreboard.restore, pending]
      · simp [Scoreboard.restore, pending, Fin.val_inj, h]

/-- Issue and retirement leave the mechanism as it is. -/
theorem Scoreboard.kind_elim {b : Scoreboard} {f : Reg → Scoreboard}
    (hf : ∀ r, (f r).kind = b.kind) (d : Option Reg) : (d.elim b f).kind = b.kind := by
  cases d with
  | none => rfl
  | some r => exact hf r

theorem writebackStage_keeps_countsWriters (hs : s.stage = .writeback)
    (h : writebackStage s = .next t) (hi : CountsWriters s) : CountsWriters t := by
  rw [countsWriters_iff] at hi ⊢
  have hdead := writebackStage_w_dead hs h
  have hb := (writebackStage_writes hs h).2
  have hframe := writebackStage_frame hs h
  have he : t.e = s.e := by rw [hframe]
  have hm : t.m = s.m := by rw [hframe]
  rw [hb, Scoreboard.kind_elim s.scoreboard.restore_kind]
  intro hk r
  rw [Scoreboard.pending_restore hk, hi hk r, s.inFlight_eq, t.inFlight_eq, he, hm,
    Latch.writes_of_dead hdead]
  omega

theorem memoryStage_keeps_countsWriters (hs : s.stage = .memory) (h : memoryStage s = .next t)
    (hw : s.w.hasInstruction = false) (hi : CountsWriters s) : CountsWriters t := by
  rw [countsWriters_iff] at hi ⊢
  have hframe := memoryStage_frame hs h
  have he : t.e = s.e := by rw [hframe]
  have hb : t.scoreboard = s.scoreboard := by rw [hframe]
  rw [hb]
  intro hk r
  rw [hi hk r, s.inFlight_eq, t.inFlight_eq, he]
  rcases memoryStage_moves hs h with ⟨hmoved, hdead⟩ | ⟨-, hm, hw'⟩
  · rw [Latch.writes_of_withoutValues hmoved, Latch.writes_of_dead hdead, Latch.writes_of_dead hw]
    omega
  · rw [hm, hw']

theorem executeStage_keeps_countsWriters (hs : s.stage = .execute)
    (h : executeStage s = .next t) (hm : s.m.hasInstruction = false) (hi : CountsWriters s) :
    CountsWriters t := by
  rw [countsWriters_iff] at hi ⊢
  have hframe := executeStage_frame hs h
  have hw : t.w = s.w := by rw [hframe]
  have hb : t.scoreboard = s.scoreboard := by rw [hframe]
  rw [hb]
  intro hk r
  rw [hi hk r, s.inFlight_eq, t.inFlight_eq, hw]
  rcases executeStage_moves hs h with ⟨hmoved, hdead⟩ | ⟨-, he, hm'⟩
  · rw [Latch.writes_of_withoutValues hmoved, Latch.writes_of_dead hdead, Latch.writes_of_dead hm]
    omega
  · rw [he, hm']

theorem decodeStage_keeps_countsWriters (hs : s.stage = .decode) (h : decodeStage s = .next t)
    (he : s.e.hasInstruction = false) (hi : CountsWriters s) : CountsWriters t := by
  rw [countsWriters_iff] at hi ⊢
  have hframe := decodeStage_frame hs h
  have hm : t.m = s.m := by rw [hframe]
  have hw : t.w = s.w := by rw [hframe]
  rcases decodeStage_moves hs h with ⟨hmoved, -, hb⟩ | ⟨-, he', hb⟩ <;> rw [hb]
  · rw [Scoreboard.kind_elim s.scoreboard.invalidate_kind]
    intro hk r
    rw [Scoreboard.pending_invalidate hk, hi hk r, s.inFlight_eq, t.inFlight_eq, hm, hw,
      Latch.writes_of_withoutValues hmoved, Latch.writes_of_dead he]
    omega
  · intro hk r
    rw [hi hk r, s.inFlight_eq, t.inFlight_eq, he', hm, hw]

theorem fetchStage_keeps_countsWriters (hs : s.stage = .fetch) (h : fetchStage s = .next t)
    (hi : CountsWriters s) : CountsWriters t := by
  rw [fetchStage_frame hs h]
  exact hi

/-- After a stage that left the core running, its own latch is empty. -/
theorem memoryStage_m_dead (hs : s.stage = .memory) (h : memoryStage s = .next t)
    (hrun : t.status = .running) : t.m.hasInstruction = false :=
  (memoryStage_moves_of_running hs h hrun).2

theorem executeStage_e_dead (hs : s.stage = .execute) (h : executeStage s = .next t)
    (hrun : t.status = .running) : t.e.hasInstruction = false :=
  (executeStage_moves_of_running hs h hrun).2

end WriterCounts

/-- Settles O42: Decode counts the writer it issues and Writeback stops counting the one it retires;
the stages between move a writer into a latch the stage before has emptied. -/
theorem stepKeepsWriterCounts : Obligations.StepKeepsWriterCounts := by
  intro s t hi h
  refine step_carries (Q := CountsWriters) (R0 := fun _ => True)
    (R1 := fun u => u.w.hasInstruction = false) (R2 := fun u => u.m.hasInstruction = false)
    (R3 := fun u => u.e.hasInstruction = false) (R4 := fun _ => True)
    (fun _ _ _ _ h => h) ?_ ?_ ?_ ?_ ?_ hi trivial h
  · exact fun u v hu _ hs e => ⟨writebackStage_keeps_countsWriters hs e hu,
      fun _ => writebackStage_w_dead (t := v) hs e⟩
  · exact fun u v hu hw hs e => ⟨memoryStage_keeps_countsWriters hs e hw hu,
      memoryStage_m_dead (t := v) hs e⟩
  · exact fun u v hu hm hs e => ⟨executeStage_keeps_countsWriters hs e hm hu,
      executeStage_e_dead (t := v) hs e⟩
  · exact fun u v hu he hs e => ⟨decodeStage_keeps_countsWriters hs e he hu, fun _ => trivial⟩
  · exact fun u v hu _ hs e => fetchStage_keeps_countsWriters hs e hu

section Decoded

/-! ### Poisoned latches (R111) -/

variable {s t : State}

/-- A live latch is not poisoned. -/
def Latch.Decoded (l : Latch) : Prop := l.hasInstruction = true → l.poison = none

theorem Latch.decoded_of_dead {l : Latch} (h : l.hasInstruction = false) : l.Decoded :=
  fun hl => absurd (h.symm.trans hl) nofun

theorem Latch.decoded_of_withoutValues {l l' : Latch} (h : l'.withoutValues = l.withoutValues)
    (hl : l.Decoded) : l'.Decoded := by
  change l'.withoutValues.Decoded
  rw [h]
  exact hl

theorem Latch.decoded_of_holds {l : Latch} {i : Instr} (h : l.holds i) : l.Decoded :=
  fun _ => l.poison_of_instr h.2

/-- A live latch that is not poisoned holds an instruction (R30, R84). -/
theorem Latch.Decoded.holds {l : Latch} (hd : l.Decoded) (hl : l.hasInstruction = true) :
    ∃ i, l.holds i := by
  cases hi : l.instr with
  | none => exact absurd (hd hl) (l.instr_eq_none_iff.mp hi)
  | some i => exact ⟨i, hl, hi⟩

theorem writebackStage_keeps_decoded (hs : s.stage = .writeback) (h : writebackStage s = .next t)
    (hi : DecodedPastDecode s) : DecodedPastDecode t := by
  obtain ⟨he, hm, -⟩ := hi
  have hdead := writebackStage_w_dead hs h
  rw [writebackStage_frame hs h]
  exact ⟨he, hm, Latch.decoded_of_dead hdead⟩

theorem memoryStage_keeps_decoded (hs : s.stage = .memory) (h : memoryStage s = .next t)
    (hi : DecodedPastDecode s) : DecodedPastDecode t := by
  obtain ⟨he, hm, hw⟩ := hi
  rcases memoryStage_moves hs h with ⟨hmoved, hdead⟩ | ⟨-, hm', hw'⟩ <;>
    rw [memoryStage_frame hs h]
  · exact ⟨he, Latch.decoded_of_dead hdead, Latch.decoded_of_withoutValues hmoved hm⟩
  · rw [hm', hw']
    exact ⟨he, hm, hw⟩

theorem executeStage_keeps_decoded (hs : s.stage = .execute) (h : executeStage s = .next t)
    (hi : DecodedPastDecode s) : DecodedPastDecode t := by
  obtain ⟨he, hm, hw⟩ := hi
  rcases executeStage_moves hs h with ⟨hmoved, hdead⟩ | ⟨-, he', hm'⟩ <;>
    rw [executeStage_frame hs h]
  · exact ⟨Latch.decoded_of_dead hdead, Latch.decoded_of_withoutValues hmoved he, hw⟩
  · rw [he', hm']
    exact ⟨he, hm, hw⟩

/-- Decode issues only what it has decoded. -/
theorem decodeStage_keeps_decoded (hs : s.stage = .decode) (h : decodeStage s = .next t)
    (hi : DecodedPastDecode s) : DecodedPastDecode t := by
  obtain ⟨he, hm, hw⟩ := hi
  have he' : t.e.Decoded := by
    rcases decodeStage_cases hs h with ⟨-, rfl⟩ | ⟨p, -, -, rfl⟩ | ⟨i, hi, -⟩
    · exact he
    · exact he
    · rcases decodeStage_moves hs h with ⟨hmoved, -⟩ | ⟨-, hsame, -⟩
      · exact Latch.decoded_of_withoutValues hmoved (Latch.decoded_of_holds hi)
      · exact hsame ▸ he
  rw [decodeStage_frame hs h]
  exact ⟨he', hm, hw⟩

theorem fetchStage_keeps_decoded (hs : s.stage = .fetch) (h : fetchStage s = .next t)
    (hi : DecodedPastDecode s) : DecodedPastDecode t := by
  rw [fetchStage_frame hs h]
  exact hi

/-! ### Every stage answers a next state (R255)

A stage finds an instruction in its live latch, and every instruction answers. -/

/-- The outcome is a next state without a poisoned latch past Decode. -/
def AnswersDecoded (o : Result) : Prop := ∃ t, o = .next t ∧ DecodedPastDecode t

theorem writebackStage_answers (hs : s.stage = .writeback) (hi : DecodedPastDecode s) :
    AnswersDecoded (writebackStage s) := by
  have hnext : ∃ t, writebackStage s = .next t := by
    unfold writebackStage
    split
    · next hl =>
      obtain ⟨i, -, hw⟩ := Latch.Decoded.holds hi.2.2 hl
      rw [hw]
      exact exec_next i s
    · exact ⟨s, rfl⟩
  obtain ⟨t, ht⟩ := hnext
  exact ⟨t, ht, writebackStage_keeps_decoded hs ht hi⟩

theorem memoryStage_answers (hs : s.stage = .memory) (hi : DecodedPastDecode s) :
    AnswersDecoded (memoryStage s) := by
  have hnext : ∃ t, memoryStage s = .next t := by
    unfold memoryStage
    split
    · next hl =>
      obtain ⟨i, -, hm⟩ := Latch.Decoded.holds hi.2.1 hl
      rw [hm]
      exact exec_next i s
    · exact ⟨_, rfl⟩
  obtain ⟨t, ht⟩ := hnext
  exact ⟨t, ht, memoryStage_keeps_decoded hs ht hi⟩

theorem executeStage_answers (hs : s.stage = .execute) (hi : DecodedPastDecode s) :
    AnswersDecoded (executeStage s) := by
  have hnext : ∃ t, executeStage s = .next t := by
    unfold executeStage
    split
    · next hl =>
      obtain ⟨i, -, he⟩ := Latch.Decoded.holds hi.1 hl
      rw [he]
      exact exec_next i s
    · exact ⟨_, rfl⟩
  obtain ⟨t, ht⟩ := hnext
  exact ⟨t, ht, executeStage_keeps_decoded hs ht hi⟩

theorem decodeStage_answers (hs : s.stage = .decode) (hi : DecodedPastDecode s) :
    AnswersDecoded (decodeStage s) := by
  have hnext : ∃ t, decodeStage s = .next t := by
    unfold decodeStage
    split
    · split
      · exact ⟨_, rfl⟩
      · exact exec_next _ s
    · exact ⟨_, rfl⟩
  obtain ⟨t, ht⟩ := hnext
  exact ⟨t, ht, decodeStage_keeps_decoded hs ht hi⟩

theorem fetchStage_answers (hs : s.stage = .fetch) (hi : DecodedPastDecode s) :
    AnswersDecoded (fetchStage s) := by
  have hnext : ∃ t, fetchStage s = .next t := by
    unfold fetchStage
    split
    · exact ⟨_, rfl⟩
    · split
      · split
        · exact ⟨_, rfl⟩
        · exact ⟨_, forwardStage_eq (s := s.loadAtPc) hs⟩
      · split
        · exact ⟨_, forwardStage_eq (s := s.resumeFetch) hs⟩
        · exact ⟨_, rfl⟩
  obtain ⟨t, ht⟩ := hnext
  exact ⟨t, ht, fetchStage_keeps_decoded hs ht hi⟩

/-- The next stage answers, or the core has stopped with an answer. -/
theorem AnswersDecoded.thenStage {o : Result} {st : Stage} {eval : State → Result}
    (ho : AnswersDecoded o)
    (heval : ∀ {u : State}, u.stage = st → DecodedPastDecode u → AnswersDecoded (eval u)) :
    AnswersDecoded (thenStage o st eval) := by
  obtain ⟨s, rfl, hi⟩ := ho
  rw [thenStage_next]
  split
  · exact heval rfl hi
  · exact ⟨s, rfl, hi⟩

theorem cycle_answers (hi : DecodedPastDecode s) : ∃ t, cycle s = .next t := by
  have hwb : AnswersDecoded (writebackStage { s with stage := .writeback }) :=
    writebackStage_answers rfl hi
  obtain ⟨u, hu, -⟩ := (((hwb.thenStage memoryStage_answers).thenStage
    executeStage_answers).thenStage decodeStage_answers).thenStage fetchStage_answers
  exact ⟨_, congrArg closeCycle hu⟩

end Decoded

/-- Settles O40: Decode issues only what it has decoded, and the stages after it only move it on. -/
theorem stepKeepsDecodedPastDecode : Obligations.StepKeepsDecodedPastDecode := by
  intro s t hi h
  exact step_keeps (Q := DecodedPastDecode) (fun _ _ _ _ h => h)
    (fun _ _ hu hs e => writebackStage_keeps_decoded hs e hu)
    (fun _ _ hu hs e => memoryStage_keeps_decoded hs e hu)
    (fun _ _ hu hs e => executeStage_keeps_decoded hs e hu)
    (fun _ _ hu hs e => decodeStage_keeps_decoded hs e hu)
    (fun _ _ hu hs e => fetchStage_keeps_decoded hs e hu) hi h

/-- Settles O47: every stage answers, and keeps what the next one needs to answer. -/
theorem stepsNeverEndOutsideTheSpec : Obligations.StepsNeverEndOutsideTheSpec := by
  intro s hi
  unfold StepSafe step advance
  split
  · split
    · exact ⟨_, rfl⟩
    · exact cycle_answers hi
  · exact ⟨s, rfl⟩

/-- Settles O38: each stage has emptied its latch for the one before it, and a Decode latch that is
live has stalled Fetch. -/
theorem noLiveLatchIsOverwritten : Obligations.NoLiveLatchIsOverwritten := by
  intro s s1 hc _ e1 _
  have c1 := writebackStage_keeps_controlBits rfl e1 hc
  refine ⟨writebackStage_w_dead rfl e1, fun s2 e2 r2 => ⟨memoryStage_m_dead rfl e2 r2,
    fun s3 e3 r3 => ⟨executeStage_e_dead rfl e3 r3, fun s4 s5 e4 r4 e5 => ?_⟩⟩⟩
  have c2 : ControlBits s2 := memoryStage_keeps_controlBits rfl e2 c1
  have c3 : ControlAfterExecute s3 := executeStage_control rfl e3 c2 r3
  have c4 : ControlAfterDecode s4 := decodeStage_control rfl e4 (c3.withStage .decode) r4
  have dead (hf : s4.fIsStalled = false) : s4.d.hasInstruction = false :=
    c4.live_iff_stalled.trans (c4.stalls_agree.symm.trans hf)
  rcases fetchStage_cases rfl e5 with ⟨-, rfl⟩ | ⟨-, -, -, rfl⟩ | ⟨-, -, hf, -⟩ |
    ⟨-, -, hf, -, -⟩ | ⟨-, -, -, rfl⟩
  · exact .inl rfl
  · exact .inl rfl
  · exact .inr (dead hf)
  · exact .inr (dead hf)
  · exact .inl rfl

/-- Settles O29: the two branches of the driver's turn that evaluate no cycle (R103, R34). -/
theorem finalStatesAndBudgetStop : Obligations.FinalStatesAndBudgetStop := by
  intro s
  constructor
  · intro hfinal
    rw [step, advance, if_neg hfinal]
  · intro hrun hbudget
    rw [step, advance, if_pos hrun, if_pos hbudget]

section Counting

/-! ### Cycles and retirements (R101, R121) -/

variable {s t : State}

/-- Writeback counts the instruction of a live latch. -/
theorem writebackStage_insnCompleted (hs : s.stage = .writeback) (h : writebackStage s = .next t) :
    t.insnCompleted = s.insnCompleted + (if s.w.hasInstruction then 1 else 0) := by
  rcases writebackStage_cases hs h with ⟨hw, rfl⟩ | ⟨hw, rfl⟩ | ⟨i, hw, -, rfl⟩
  · simp [hw]
  · simp [hw.1]
  · simp [hw.1]

/-- The clock and the count of retirements, as a stage of the cycle from `s` finds them. -/
def CountedFrom (s u : State) : Prop :=
  u.clock = s.clock ∧ u.insnCompleted = s.insnCompleted + (if s.w.hasInstruction then 1 else 0)

/-- The clock and the count of retirements at the end of the cycle from `s`. -/
def CountedOnceFrom (s u : State) : Prop :=
  u.clock = s.clock + 1 ∧
    u.insnCompleted = s.insnCompleted + (if s.w.hasInstruction then 1 else 0)

/-- A stage that leaves the count of retirements, and raises a fault or leaves the status and the
clock, either goes on with the cycle counted as before or has counted it. -/
theorem CountedFrom.stage {u v : State} (hu : CountedFrom s u) (hr : u.status = .running)
    (hn : v.insnCompleted = u.insnCompleted)
    (hp : (v.status = u.status ∧ v.clock = u.clock) ∨ ∃ k info, v = u.raiseFault k info) :
    (v.status = .running → CountedFrom s v) ∧ (v.status ≠ .running → CountedOnceFrom s v) := by
  obtain ⟨hc, hi⟩ := hu
  rcases hp with ⟨hst, hcl⟩ | ⟨k, info, rfl⟩
  · exact ⟨fun _ => ⟨hcl.trans hc, hn.trans hi⟩, fun hv => absurd (hst.trans hr) hv⟩
  · exact ⟨nofun, fun _ => ⟨congrArg (· + 1) hc, hi⟩⟩

end Counting

/-- Settles O30: Writeback counts the retirement; a stage that stops the core counts the cycle, and
otherwise its end does. -/
theorem cyclesAndRetirementsAreCounted : Obligations.CyclesAndRetirementsAreCounted := by
  intro s t hev h
  rw [step_of_evaluates hev] at h
  suffices hend : ∃ u, CountedOnceFrom s u ∧ t = { u with stage := .writeback } by
    obtain ⟨u, hu, rfl⟩ := hend
    exact hu
  refine cycle_rule (P0 := fun u => u = { s with stage := .writeback }) (P1 := CountedFrom s)
    (P2 := CountedFrom s) (P3 := CountedFrom s) (P4 := CountedFrom s) (P5 := CountedFrom s)
    (Q := CountedOnceFrom s) ?_ ?_ ?_ ?_ ?_ (fun u hu _ => ⟨congrArg (· + 1) hu.1, hu.2⟩)
    rfl hev.1 h
  · rintro u v rfl hr hs e
    have hn := writebackStage_insnCompleted hs e
    rcases writebackStage_progress hs e with ⟨-, hst, hcl⟩ | ⟨-, rfl⟩
    · exact ⟨fun _ => ⟨hcl, hn⟩, fun hv => absurd (hst.trans hr) hv⟩
    · exact ⟨nofun, fun _ => ⟨rfl, hn⟩⟩
  · exact fun u v hu hr hs e => hu.stage hr (by rw [memoryStage_frame hs e])
      ((memoryStage_progress hs e).imp_right fun h => ⟨_, _, h⟩)
  · exact fun u v hu hr hs e => hu.stage hr (by rw [executeStage_frame hs e])
      ((executeStage_progress hs e).imp_right fun ⟨_, _, h⟩ => ⟨_, _, h⟩)
  · exact fun u v hu hr hs e => hu.stage hr (by rw [decodeStage_frame hs e])
      ((decodeStage_progress hs e).imp_right fun ⟨_, _, h⟩ => ⟨_, _, h⟩)
  · exact fun u v hu hr hs e => hu.stage hr (by rw [fetchStage_frame hs e])
      (.inl (fetchStage_progress hs e))

/-- Settles O31: Writeback's HALT stops the core, so no stage after it is evaluated. -/
theorem haltStopsBeforeTheOtherStages : Obligations.HaltStopsBeforeTheOtherStages := by
  intro s hev hw
  have hwb : writebackStage { s with stage := .writeback } =
      .next ({ s with stage := .writeback } : State).retire.haltCore := by
    simp only [writebackStage, hw.1, hw.2, if_true]
    rw [exec_writeback _ _ rfl, if_pos rfl]
  rw [step_of_evaluates hev, cycle, hwb]
  rfl

/-- Settles O19: the operations set one entry of the vector the kind keeps. -/
theorem scoreboardOperationsByKind : Obligations.ScoreboardOperationsByKind := by
  intro r q
  refine ⟨fun valid => ⟨rfl, _, _, rfl, ?_, rfl, ?_, fun hq => ?_⟩,
    fun pend => ⟨?_, _, _, rfl, ?_, rfl, ?_, fun hq => ?_⟩, fun s => ?_⟩
  · simp
  · simp
  · have hne : r.val ≠ q.val := fun h => hq (Fin.ext h.symm)
    simp [hne]
  · exact Scoreboard.ready_iff_pending (b := .counter pend) rfl r
  · simp
  · simp
  · have hne : r.val ≠ q.val := fun h => hq (Fin.ext h.symm)
    simp [hne]
  · simp [State.report]

section Load

/-! ### Load (R110) -/

variable {s : State} {a : Word}

/-- An address that is not a multiple of 4 from the first instruction is misaligned (R110, R256). -/
theorem State.fetchRecord_misaligned
    (h : ((a.toNat : Int) - s.cfg.baseAddr.toNat) % 4 ≠ 0) :
    s.fetchRecord a = .error .fetchMisaligned := by
  simp only [State.fetchRecord, State.storeIndex, if_pos h]

/-- An aligned address before the first instruction or past the last is out of range (R110). -/
theorem State.fetchRecord_outOfRange (h : ((a.toNat : Int) - s.cfg.baseAddr.toNat) % 4 = 0)
    (hr : (a.toNat : Int) - s.cfg.baseAddr.toNat < 0 ∨
      (s.istore.length : Int) ≤ ((a.toNat : Int) - s.cfg.baseAddr.toNat) / 4) :
    s.fetchRecord a = .error .fetchOutOfRange := by
  simp only [State.fetchRecord, State.storeIndex, if_neg (not_not.mpr h), if_pos hr]

/-- `Load` fills the record fields of the Fetch latch (R110). -/
theorem State.loadedLatch_ok {r : Record} (h : s.fetchRecord a = .ok r) :
    s.loadedLatch a = { s.f with
      pc := a, opcode := .known r.opcode, rd := r.rd, rs1 := r.rs1, rs2 := r.rs2, imm := r.imm
      mnemonic := r.mnemonic } := by
  simp only [State.loadedLatch, h]

end Load

/-- Settles O20: what `Load` leaves follows what the fetch at the address answers. -/
theorem loadReadsTheInstructionStore : Obligations.LoadReadsTheInstructionStore := by
  intro s a off l
  refine ⟨s.loadedLatch_pc a, s.loadedLatch_hasInstruction a, fun h => ?_, fun h hr => ?_,
    fun k r hoff hk => ?_, rfl⟩
  · exact State.loadedLatch_opcode_error (State.fetchRecord_misaligned h)
  · exact State.loadedLatch_opcode_error (State.fetchRecord_outOfRange h hr)
  · have hl : l = _ := State.loadedLatch_ok (State.fetchRecord_of_index k hk (by omega))
    rw [hl]
    exact ⟨rfl, rfl, rfl, rfl, rfl, rfl, rfl⟩

section FetchCases

/-! ### Fetch, case by case (R105 to R109) -/

variable {s : State}

/-- The redirect skip is `fetchStage_of_redirect`. -/
theorem fetchStage_of_stalled (hr : s.redirect = false) (hf : s.f.hasInstruction = true)
    (hst : s.fIsStalled = true) : fetchStage s = .next s.holdFetch := by
  simp [fetchStage, hr, hf, hst]

theorem fetchStage_of_live (hr : s.redirect = false) (hf : s.f.hasInstruction = true)
    (hst : s.fIsStalled = false) : fetchStage s = forwardStage s.loadAtPc := by
  simp [fetchStage, hr, hf, hst]

theorem fetchStage_of_held (hr : s.redirect = false) (hf : s.f.hasInstruction = false)
    (hst : s.fIsStalled = false) (hh : s.fHeld = true) :
    fetchStage s = forwardStage s.resumeFetch := by
  simp [fetchStage, hr, hf, hst, hh]

theorem fetchStage_of_idle (hr : s.redirect = false) (hf : s.f.hasInstruction = false)
    (hidle : s.fIsStalled = true ∨ s.fHeld = false) : fetchStage s = .next s := by
  rcases hidle with h | h <;> simp [fetchStage, hr, hf, h]

end FetchCases

/-- An unstalled Fetch forwards its latch unstalled and moves the PC on by 4 (R106, R108). -/
theorem State.forward_eq {s : State} (hst : s.fIsStalled = false) :
    s.forward = { s with d := s.f, dIsStalled := false, pc := s.pc + 4 } := by
  rw [State.forward, hst, nextPc_eq]

/-- Settles O21: the five cases of Fetch, with forwarding written out. -/
theorem fetchHasItsFiveCases : Obligations.FetchHasItsFiveCases := by
  intro s hs l
  refine ⟨fetchStage_of_redirect, fun hr hf hst => ?_, fun hr hf hst => ?_, fun hr hf hst hh => ?_,
    fetchStage_of_idle⟩
  · rw [fetchStage_of_stalled hr hf hst]
    rfl
  · rw [fetchStage_of_live hr hf hst, forwardStage_eq (s := s.loadAtPc) hs,
      State.forward_eq (s := s.loadAtPc) hst]
    change Host.Outcome.next (if l.instr = some .halt then _ else _) = _
    split <;> rfl
  · rw [fetchStage_of_held hr hf hst hh, forwardStage_eq (s := s.resumeFetch) hs,
      State.forward_eq (s := s.resumeFetch) hst]
    change Host.Outcome.next (if s.f.instr = some .halt then _ else _) = _
    by_cases hi : s.f.instr = some .halt
    · rw [if_pos hi, decide_eq_false (not_not.mpr hi)]
      rfl
    · rw [if_neg hi, decide_eq_true hi]
      rfl

/-- Settles O22: the cycle is its five stages in order, and a stage runs the instruction it finds.
-/
theorem stepRunsTheDecodedInstructions : Obligations.StepRunsTheDecodedInstructions := by
  intro s hev
  refine ⟨step_of_evaluates hev, fun t i => ⟨writebackStage_of_holds, memoryStage_of_holds,
    executeStage_of_holds, decodeStage_of_holds, fun r hr hf hst hrec => ?_,
    fun hr hf hst hh hi => ?_⟩⟩
  · rw [fetchStage_of_live hr hf hst]
    exact forwardStage_of_instr (State.loadedLatch_instr_ok hrec)
  · rw [fetchStage_of_held hr hf hst hh]
    exact forwardStage_of_instr (s := t.resumeFetch) hi

section Issue

/-! ### Issuing an instruction (R114) -/

variable {s : State} {i : Instr}

/-- What Decode leaves when it issues `i`. -/
def State.issue (s : State) (i : Instr) : State :=
  ((s.readSources i.src1 i.src2).invalidateDest i.dest).advanceDecode

theorem State.issue_e (s : State) (i : Instr) :
    (s.issue i).e = (s.readSources i.src1 i.src2).d := by simp [State.issue]

/-- Issuing changes the scoreboard, the Decode and Execute latches and the stall flags. -/
theorem State.issue_frame (s : State) (i : Instr) : s.issue i = { s with
    scoreboard := (s.issue i).scoreboard, d := (s.issue i).d, e := (s.issue i).e
    dIsStalled := false, fIsStalled := false } := by
  unfold State.issue
  cases i.dest <;> rfl

theorem decodeStage_issues (hs : s.stage = .decode) (hi : s.d.holds i)
    (hready : s.SourcesReady i.src1 i.src2) : decodeStage s = .next (s.issue i) := by
  rw [decodeStage_of_holds hi, exec_decode i s hs, State.decodeWith_issue hready]
  rfl

theorem decodeStage_stalls (hs : s.stage = .decode) (hi : s.d.holds i)
    (hready : ¬s.SourcesReady i.src1 i.src2) : decodeStage s = .next s.stall := by
  rw [decodeStage_of_holds hi, exec_decode i s hs, State.decodeWith_stall hready]

end Issue

section Cycle

/-! ### A cycle that leaves the core running -/

variable {s s1 s2 s3 s4 s5 : State}

theorem closeCycle_running (h : s.status = .running) :
    closeCycle (.next s) = .next { s.tick with stage := .writeback } := by
  simp [closeCycle, h]

theorem closeCycle_stopped (h : s.status ≠ .running) :
    closeCycle (.next s) = .next { s with stage := .writeback } := by
  simp [closeCycle, h]

/-- The step whose five stages are known. -/
theorem step_of_stages (hev : EvaluatesCycle s)
    (h1 : writebackStage { s with stage := .writeback } = .next s1) (r1 : s1.status = .running)
    (h2 : memoryStage { s1 with stage := .memory } = .next s2) (r2 : s2.status = .running)
    (h3 : executeStage { s2 with stage := .execute } = .next s3) (r3 : s3.status = .running)
    (h4 : decodeStage { s3 with stage := .decode } = .next s4) (r4 : s4.status = .running)
    (h5 : fetchStage { s4 with stage := .fetch } = .next s5) (r5 : s5.status = .running) :
    step s = .next { s5.tick with stage := .writeback } := by
  rw [step_of_evaluates hev, cycle, h1, thenStage_running _ _ r1, h2, thenStage_running _ _ r2,
    h3, thenStage_running _ _ r3, h4, thenStage_running _ _ r4, h5, closeCycle_running r5]

/-- Writeback and Memory, leaving the core running, do not count the cycle. -/
theorem clock_after_memory
    (h1 : writebackStage { s with stage := .writeback } = .next s1) (r1 : s1.status = .running)
    (h2 : memoryStage { s1 with stage := .memory } = .next s2) (r2 : s2.status = .running) :
    s2.clock = s.clock := by
  have c1 : s1.clock = s.clock := by
    rcases writebackStage_progress rfl h1 with ⟨-, -, hcl⟩ | ⟨-, rfl⟩
    · exact hcl
    · cases r1
  rcases memoryStage_progress rfl h2 with ⟨-, hcl⟩ | rfl
  · exact hcl.trans c1
  · cases r2

/-- Nor does Execute. -/
theorem executeStage_clock (h : executeStage { s2 with stage := .execute } = .next s3)
    (hrun : s3.status = .running) : s3.clock = s2.clock := by
  rcases executeStage_progress rfl h with ⟨-, hcl⟩ | ⟨k, -, rfl⟩
  · exact hcl
  · cases hrun

end Cycle

/-- Settles O35: Execute takes the branch, Decode finds its latch flushed, and Fetch clears the
redirect flag. -/
theorem takenBranchFlushesAndSkipsFetch : Obligations.TakenBranchFlushesAndSkipsFetch := by
  intro s s1 s2 hev h1 r1 h2 r2 hb
  rw [step_of_stages hev h1 r1 h2 r2
    (executeStage_of_takesBranch (s := { s2 with stage := .execute }) rfl hb) r2
    (decodeStage_of_dead rfl) r2 (fetchStage_of_redirect rfl) r2, ← clock_after_memory h1 r1 h2 r2]
  rfl

/-- Settles O36: Decode only sets the stall flags, and a stalled Fetch holds or idles. -/
theorem stallHoldsDecodeAndFetch : Obligations.StallHoldsDecodeAndFetch := by
  intro s s1 s2 s3 i r hev h1 r1 h2 r2 h3 r3 hred hi hr hready
  have hdec : decodeStage { s3 with stage := .decode } =
      .next (State.stall { s3 with stage := .decode }) :=
    decodeStage_stalls rfl hi (State.not_sourcesReady hr hready)
  have hclock : s3.clock = s.clock :=
    (executeStage_clock h3 r3).trans (clock_after_memory h1 r1 h2 r2)
  constructor
  · intro hf
    rw [step_of_stages hev h1 r1 h2 r2 h3 r3 hdec r3 (fetchStage_of_stalled hred hf rfl) r3,
      ← hclock]
    rfl
  · intro hf
    rw [step_of_stages hev h1 r1 h2 r2 h3 r3 hdec r3 (fetchStage_of_idle hred hf (.inl rfl)) r3,
      ← hclock]
    rfl

/-- On resume Fetch makes its latch live, forwards it and moves the PC on (R108). -/
theorem fetchStage_resumes {s : State} (hs : s.stage = .fetch) (hr : s.redirect = false)
    (hf : s.f.hasInstruction = false) (hst : s.fIsStalled = false) (hh : s.fHeld = true) :
    ∃ u, fetchStage s = .next u ∧ u.status = s.status ∧ u.e = s.e ∧
      u.d = { s.f with hasInstruction := true } ∧ u.pc = s.pc + 4 ∧ u.dIsStalled = false ∧
      u.fIsStalled = false ∧ u.fHeld = false := by
  refine ⟨_, (fetchStage_of_held hr hf hst hh).trans (forwardStage_eq (s := s.resumeFetch) hs), ?_⟩
  rw [State.forward_eq (s := s.resumeFetch) hst]
  split <;> exact ⟨rfl, rfl, rfl, rfl, rfl, hst, rfl⟩

/-- What Decode and Fetch find when Execute was empty: the latches, the PC and the control bits as
before the cycle, and the registers that Writeback left. -/
theorem decode_finds {s s1 s2 s3 : State}
    (h1 : writebackStage { s with stage := .writeback } = .next s1)
    (h2 : memoryStage { s1 with stage := .memory } = .next s2)
    (h3 : executeStage { s2 with stage := .execute } = .next s3)
    (he : s.e.hasInstruction = false) :
    s3.d = s.d ∧ s3.f = s.f ∧ s3.pc = s.pc ∧ s3.fHeld = s.fHeld ∧ s3.redirect = s.redirect ∧
      s3.x = s1.x := by
  have f1 := writebackStage_frame rfl h1
  have f2 := memoryStage_frame rfl h2
  have e2 : s2.e = s.e := by rw [f2, f1]
  rw [executeStage_of_dead (s := { s2 with stage := .execute })
    ((congrArg Latch.hasInstruction e2).trans he)] at h3
  cases h3
  rw [f2, f1]
  exact ⟨rfl, rfl, rfl, rfl, rfl, rfl⟩

/-- Settles O37: a stalled Decode leaves Execute empty, so Decode issues from the latches the cycle
began with, and Fetch finds its stall cleared and its latch held. -/
theorem issueResumesTheHeldFetch : Obligations.IssueResumesTheHeldFetch := by
  intro s s1 s2 s3 t i hev hc h1 r1 h2 r2 h3 r3 hst hheld hi hready h
  obtain ⟨-, -, hhold, hred, hexec⟩ := hc
  obtain ⟨hf, -⟩ := hhold hheld
  have he : s.e.hasInstruction = false := Bool.eq_false_of_not_eq_true fun he =>
    absurd (hst.symm.trans (hexec he).1) nofun
  obtain ⟨d3, f3, pc3, held3, red3, x3⟩ := decode_finds h1 h2 h3 he
  have hdec : decodeStage { s3 with stage := .decode } =
      .next (State.issue { s3 with stage := .decode } i) :=
    decodeStage_issues rfl (d3 ▸ hi) (State.sourcesReady_of_forall hready)
  obtain ⟨u, hu, ur, ue, ud, upc, uds, ufs, uh⟩ :=
    fetchStage_resumes (s := { State.issue { s3 with stage := .decode } i with stage := .fetch })
      rfl (by rw [State.issue_frame]; exact red3.trans hred)
      (by rw [State.issue_frame]; exact (congrArg Latch.hasInstruction f3).trans hf) rfl
      (by rw [State.issue_frame]; exact held3.trans hheld)
  have r4 : (State.issue { s3 with stage := .decode } i).status = .running := by
    rw [State.issue_frame]
    exact r3
  cases h.symm.trans (step_of_stages hev h1 r1 h2 r2 h3 r3 hdec r4 hu (ur.trans r4))
  have reg3 : State.reg { s3 with stage := .decode } = s1.reg := by
    funext r
    exact congrArg (fun x : Vector Word 16 => x[r]) x3
  refine ⟨?_, ?_, ?_, uds, ufs, uh⟩
  · refine ue.trans ((State.issue_e _ i).trans ?_)
    rw [State.readSources, reg3, ← d3]
  · refine ud.trans ?_
    rw [State.issue_frame, ← f3]
  · refine upc.trans ?_
    rw [State.issue_frame, ← pc3]

section RunMode

/-! ### RUN_MODE (R140)

No operation reads the run mode, so each does to a state in another mode what it does to the state,
in that mode. -/

/-- The state in run mode `mode`. -/
def State.withRunMode (mode : RunMode) (s : State) : State :=
  { s with cfg := { s.cfg with runMode := mode } }

/-- The outcome with its next state in run mode `mode`. -/
def outcomeWithRunMode (mode : RunMode) : Result → Result
  | .next s => .next (s.withRunMode mode)
  | .fault r => .fault r
  | .refused r => .refused r

variable (mode : RunMode) (s : State)

@[simp] theorem State.withRunMode_e : (s.withRunMode mode).e = s.e := rfl
@[simp] theorem State.withRunMode_m : (s.withRunMode mode).m = s.m := rfl
@[simp] theorem State.withRunMode_w : (s.withRunMode mode).w = s.w := rfl
@[simp] theorem State.withRunMode_d : (s.withRunMode mode).d = s.d := rfl
@[simp] theorem State.withRunMode_f : (s.withRunMode mode).f = s.f := rfl
@[simp] theorem State.withRunMode_cellIndex (a : Word) :
    (s.withRunMode mode).cellIndex a = s.cellIndex a := rfl

theorem State.memoryLoad_withRunMode :
    (s.withRunMode mode).memoryLoad = s.memoryLoad.withRunMode mode := by
  unfold State.memoryLoad
  rw [State.withRunMode_cellIndex, State.withRunMode_m]
  cases s.cellIndex s.m.memoryAddress <;> rfl

theorem State.memoryStore_withRunMode (r : Reg) :
    (s.withRunMode mode).memoryStore r = (s.memoryStore r).withRunMode mode := by
  unfold State.memoryStore
  rw [State.withRunMode_cellIndex, State.withRunMode_m]
  cases s.cellIndex s.m.memoryAddress <;> rfl

theorem State.executeBranch_withRunMode (c : Bool) (imm : Word) :
    (s.withRunMode mode).executeBranch c imm = (s.executeBranch c imm).withRunMode mode := by
  cases c <;> rfl

theorem State.executeCompare_withRunMode :
    (s.withRunMode mode).executeCompare = s.executeCompare.withRunMode mode := by
  unfold State.executeCompare
  change (if s.cfg.cmpFallthrough then _ else _) = _
  split
  · exact State.executeBranch_withRunMode mode
      (s.setZ (zeroOfCompare s.e.sourceValue1 s.e.sourceValue2)) _ _
  · rfl

theorem State.decodeWith_withRunMode (a b c : Option Reg) :
    (s.withRunMode mode).decodeWith a b c = (s.decodeWith a b c).withRunMode mode := by
  have ready (r : Option Reg) : (s.withRunMode mode).sourceReady r = s.sourceReady r := by
    cases r <;> rfl
  unfold State.decodeWith
  rw [ready, ready]
  split
  · cases c <;> rfl
  · rfl

/-- Every instruction's action in every stage. -/
theorem exec_withRunMode (i : Instr) :
    exec i (s.withRunMode mode) = outcomeWithRunMode mode (exec i s) := by
  cases hs : s.stage with
  | fetch =>
    rw [exec_fetch i s hs, exec_fetch i (s.withRunMode mode) hs]
    split <;> rfl
  | decode =>
    rw [exec_decode i s hs, exec_decode i (s.withRunMode mode) hs, State.decodeWith_withRunMode]
    rfl
  | execute =>
    rw [exec_execute i s hs, exec_execute i (s.withRunMode mode) hs]
    refine congrArg Host.Outcome.next ?_
    cases i with
    | div =>
      rw [State.withRunMode_e]
      cases divWord s.e.sourceValue1 s.e.sourceValue2 <;> rfl
    | cmp => exact s.executeCompare_withRunMode mode
    | bz imm | bnz imm => exact s.executeBranch_withRunMode mode _ imm
    | _ => rfl
  | memory =>
    rw [exec_memory i s hs, exec_memory i (s.withRunMode mode) hs]
    refine congrArg Host.Outcome.next ?_
    cases i with
    | load | ldr => exact s.memoryLoad_withRunMode mode
    | store r | str r => exact s.memoryStore_withRunMode mode r
    | _ => rfl
  | writeback =>
    rw [exec_writeback i s hs, exec_writeback i (s.withRunMode mode) hs]
    split
    · rfl
    · cases i.dest <;> rfl

/-- The stage does the same in every run mode. -/
def IgnoresRunMode (eval : State → Result) : Prop :=
  ∀ s : State, eval (s.withRunMode mode) = outcomeWithRunMode mode (eval s)

theorem writebackStage_ignoresRunMode : IgnoresRunMode mode writebackStage := by
  intro s
  unfold writebackStage
  rw [State.withRunMode_w]
  split
  · split
    · exact exec_withRunMode mode s _
    · rfl
  · rfl

theorem memoryStage_ignoresRunMode : IgnoresRunMode mode memoryStage := by
  intro s
  unfold memoryStage
  rw [State.withRunMode_m]
  split
  · split
    · exact exec_withRunMode mode s _
    · rfl
  · rfl

theorem executeStage_ignoresRunMode : IgnoresRunMode mode executeStage := by
  intro s
  unfold executeStage
  rw [State.withRunMode_e]
  split
  · split
    · exact exec_withRunMode mode s _
    · rfl
  · rfl

theorem decodeStage_ignoresRunMode : IgnoresRunMode mode decodeStage := by
  intro s
  unfold decodeStage
  rw [State.withRunMode_d]
  split
  · split
    · rfl
    · exact exec_withRunMode mode s _
  · rfl

theorem forwardStage_ignoresRunMode : IgnoresRunMode mode forwardStage := by
  intro s
  unfold forwardStage
  rw [State.withRunMode_f]
  split
  · exact exec_withRunMode mode s _
  · rfl

theorem fetchStage_ignoresRunMode : IgnoresRunMode mode fetchStage := by
  intro s
  unfold fetchStage
  change (if s.redirect then _ else if s.f.hasInstruction then if s.fIsStalled then _ else _ else
    if !s.fIsStalled && s.fHeld then _ else _) = _
  split
  · rfl
  · split
    · split
      · rfl
      · exact forwardStage_ignoresRunMode mode s.loadAtPc
    · split
      · exact forwardStage_ignoresRunMode mode s.resumeFetch
      · rfl

variable {mode}

theorem IgnoresRunMode.thenStage {st : Stage} {eval : State → Result}
    (heval : IgnoresRunMode mode eval) (o : Result) :
    thenStage (outcomeWithRunMode mode o) st eval =
      outcomeWithRunMode mode (thenStage o st eval) := by
  cases o with
  | next s =>
    change (if s.status = .running then _ else _) = _
    rw [thenStage_next]
    split
    · exact heval { s with stage := st }
    · rfl
  | fault r => rfl
  | refused r => rfl

theorem closeCycle_ignoresRunMode (o : Result) :
    closeCycle (outcomeWithRunMode mode o) = outcomeWithRunMode mode (closeCycle o) := by
  cases o with
  | next s =>
    by_cases h : s.status = .running
    · rw [closeCycle_running h]
      exact closeCycle_running (s := s.withRunMode mode) h
    · rw [closeCycle_stopped h]
      exact closeCycle_stopped (s := s.withRunMode mode) h
  | fault r => rfl
  | refused r => rfl

variable (mode)

theorem cycle_ignoresRunMode : IgnoresRunMode mode cycle := by
  intro s
  have hwb : writebackStage { s.withRunMode mode with stage := .writeback } =
      outcomeWithRunMode mode (writebackStage { s with stage := .writeback }) :=
    writebackStage_ignoresRunMode mode { s with stage := .writeback }
  unfold cycle
  dsimp only
  rw [hwb, (memoryStage_ignoresRunMode mode).thenStage,
    (executeStage_ignoresRunMode mode).thenStage, (decodeStage_ignoresRunMode mode).thenStage,
    (fetchStage_ignoresRunMode mode).thenStage, closeCycle_ignoresRunMode]

theorem step_ignoresRunMode : IgnoresRunMode mode step := by
  intro s
  unfold step advance
  change (if s.status = .running then if s.clock = s.cfg.maxCycles then _ else _ else _) = _
  split
  · split
    · rfl
    · exact cycle_ignoresRunMode mode s
  · rfl

end RunMode

/-- Settles O53: the step commutes with setting the run mode. -/
theorem runModeHasNoEffect : Obligations.RunModeHasNoEffect := by
  intro s mode other
  have hstep : step (other s) = outcomeWithRunMode mode (step s) := step_ignoresRunMode mode s
  cases h : step s <;> exact hstep.trans (congrArg _ h)

section Trace

/-! ### Where a cycle ends, and what its trace shows (R100, R141) -/

/-- The course of a cycle from `s` to `t`: the stages it evaluated, each but the last leaving the
core running. -/
inductive CycleCourse (s t : State) : Prop where
  /-- Writeback stopped the core. -/
  | writeback (s1 : State)
      (h1 : writebackStage { s with stage := .writeback } = .next s1) (n1 : s1.status ≠ .running)
      (ht : t.status = s1.status)
  /-- Memory stopped the core. -/
  | memory (s1 s2 : State)
      (h1 : writebackStage { s with stage := .writeback } = .next s1) (r1 : s1.status = .running)
      (h2 : memoryStage { s1 with stage := .memory } = .next s2) (n2 : s2.status ≠ .running)
      (ht : t.status = s2.status)
  /-- Execute stopped the core. -/
  | execute (s1 s2 s3 : State)
      (h1 : writebackStage { s with stage := .writeback } = .next s1) (r1 : s1.status = .running)
      (h2 : memoryStage { s1 with stage := .memory } = .next s2) (r2 : s2.status = .running)
      (h3 : executeStage { s2 with stage := .execute } = .next s3) (n3 : s3.status ≠ .running)
      (ht : t.status = s3.status)
  /-- Decode stopped the core. -/
  | decode (s1 s2 s3 s4 : State)
      (h1 : writebackStage { s with stage := .writeback } = .next s1) (r1 : s1.status = .running)
      (h2 : memoryStage { s1 with stage := .memory } = .next s2) (r2 : s2.status = .running)
      (h3 : executeStage { s2 with stage := .execute } = .next s3) (r3 : s3.status = .running)
      (h4 : decodeStage { s3 with stage := .decode } = .next s4) (n4 : s4.status ≠ .running)
      (ht : t.status = s4.status)
  /-- All five stages ran. -/
  | whole (s1 s2 s3 s4 : State)
      (h1 : writebackStage { s with stage := .writeback } = .next s1) (r1 : s1.status = .running)
      (h2 : memoryStage { s1 with stage := .memory } = .next s2) (r2 : s2.status = .running)
      (h3 : executeStage { s2 with stage := .execute } = .next s3) (r3 : s3.status = .running)
      (h4 : decodeStage { s3 with stage := .decode } = .next s4) (r4 : s4.status = .running)
      (ht : t.status = .running)

variable {s t : State}

theorem cycleCourse_of_cycle (h : cycle s = .next t) : CycleCourse s t := by
  unfold cycle at h
  obtain ⟨s5, h5, hc⟩ := closeCycle_cases h
  have ht : t.status = s5.status := by rcases hc with ⟨-, rfl⟩ | ⟨-, rfl⟩ <;> rfl
  obtain ⟨s4, h4, ⟨r4, e5⟩ | ⟨n4, rfl⟩⟩ := thenStage_cases h5 <;>
  obtain ⟨s3, h3, ⟨r3, e4⟩ | ⟨n3, rfl⟩⟩ := thenStage_cases h4 <;>
  obtain ⟨s2, h2, ⟨r2, e3⟩ | ⟨n2, rfl⟩⟩ := thenStage_cases h3 <;>
  obtain ⟨s1, h1, ⟨r1, e2⟩ | ⟨n1, rfl⟩⟩ := thenStage_cases h2
  -- A stopped core stays stopped: of the sixteen combinations five are consistent.
  case inl.inl.inl.inl =>
    exact .whole s1 s2 s3 s4 h1 r1 e2 r2 e3 r3 e4 r4
      (ht.trans ((fetchStage_progress rfl e5).1.trans r4))
  case inr.inl.inl.inl => exact .decode s1 s2 s3 s5 h1 r1 e2 r2 e3 r3 e4 n4 ht
  case inr.inr.inl.inl => exact .execute s1 s2 s5 h1 r1 e2 r2 e3 n3 ht
  case inr.inr.inr.inl => exact .memory s1 s5 h1 r1 e2 n2 ht
  case inr.inr.inr.inr => exact .writeback s5 h1 n1 ht
  all_goals contradiction

theorem observeAfter_running (h : s.status = .running) (st : Stage) (latch : State → Latch) :
    observeAfter (.next s) st latch = [⟨st, (latch s).observe⟩] := by
  simp [observeAfter, h]

theorem observeAfter_stopped (h : s.status ≠ .running) (st : Stage) (latch : State → Latch) :
    observeAfter (.next s) st latch = [] := by
  simp [observeAfter, h]

/-! Writeback and Memory leave alone what the stages after them see. -/

variable {s1 s2 s3 s4 : State}

theorem m_after_writeback
    (h1 : writebackStage { s with stage := .writeback } = .next s1) : s1.m = s.m := by
  rw [writebackStage_frame rfl h1]

/-- What Execute, Decode and Fetch will read is as it was before the cycle. -/
theorem latches_after_memory
    (h1 : writebackStage { s with stage := .writeback } = .next s1)
    (h2 : memoryStage { s1 with stage := .memory } = .next s2) :
    s2.e = s.e ∧ s2.d = s.d ∧ s2.f = s.f ∧ s2.z = s.z ∧ s2.cfg = s.cfg := by
  rw [memoryStage_frame rfl h2, writebackStage_frame rfl h1]
  exact ⟨rfl, rfl, rfl, rfl, rfl⟩

/-- A branch is taken in the cycle exactly if it is taken on the latch and flag before it. -/
theorem takesBranch_after_memory
    (h1 : writebackStage { s with stage := .writeback } = .next s1)
    (h2 : memoryStage { s1 with stage := .memory } = .next s2) :
    s2.e.TakesBranch s2 ↔ s.e.TakesBranch s := by
  obtain ⟨he, -, -, hz, hcfg⟩ := latches_after_memory h1 h2
  simp only [Latch.TakesBranch, he, hz, hcfg]

theorem f_after_decode (h4 : decodeStage { s3 with stage := .decode } = .next s4) :
    s4.f = s3.f := by
  rw [decodeStage_frame rfl h4]

/-! The trace by the stage that ended the cycle. -/

section Ends

variable (hev : EvaluatesCycle s)
  (h1 : writebackStage { s with stage := .writeback } = .next s1)
include hev h1

theorem cycleTrace_writeback (n1 : s1.status ≠ .running) :
    cycleTrace s = [⟨.writeback, s.w.observe⟩] := by
  rw [cycleTrace, if_pos hev]
  simp only [h1, thenStage_stopped _ _ n1, observeAfter_stopped n1]
  rfl

variable (r1 : s1.status = .running)
  (h2 : memoryStage { s1 with stage := .memory } = .next s2)
include r1 h2

theorem cycleTrace_memory (n2 : s2.status ≠ .running) :
    cycleTrace s = [⟨.writeback, s.w.observe⟩, ⟨.memory, s.m.observe⟩] := by
  rw [cycleTrace, if_pos hev]
  simp only [h1, thenStage_running _ _ r1, h2, thenStage_stopped _ _ n2,
    observeAfter_running r1, observeAfter_stopped n2]
  rw [m_after_writeback h1]
  rfl

variable (r2 : s2.status = .running)
  (h3 : executeStage { s2 with stage := .execute } = .next s3)
include r2 h3

theorem cycleTrace_execute (n3 : s3.status ≠ .running) :
    cycleTrace s =
      [⟨.writeback, s.w.observe⟩, ⟨.memory, s.m.observe⟩, ⟨.execute, s.e.observe⟩] := by
  rw [cycleTrace, if_pos hev]
  simp only [h1, thenStage_running _ _ r1, h2, thenStage_running _ _ r2, h3,
    thenStage_stopped _ _ n3, observeAfter_running r1, observeAfter_running r2,
    observeAfter_stopped n3]
  rw [m_after_writeback h1, (latches_after_memory h1 h2).1]
  rfl

variable (r3 : s3.status = .running)
  (h4 : decodeStage { s3 with stage := .decode } = .next s4)
include r3 h4

theorem cycleTrace_decode (n4 : s4.status ≠ .running) :
    cycleTrace s = [⟨.writeback, s.w.observe⟩, ⟨.memory, s.m.observe⟩,
      ⟨.execute, s.e.observe⟩, ⟨.decode, s3.d.observe⟩] := by
  rw [cycleTrace, if_pos hev]
  simp only [h1, thenStage_running _ _ r1, h2, thenStage_running _ _ r2, h3,
    thenStage_running _ _ r3, h4, observeAfter_running r1, observeAfter_running r2,
    observeAfter_running r3, observeAfter_stopped n4]
  rw [m_after_writeback h1, (latches_after_memory h1 h2).1]
  rfl

theorem cycleTrace_whole (r4 : s4.status = .running) :
    cycleTrace s = [⟨.writeback, s.w.observe⟩, ⟨.memory, s.m.observe⟩,
      ⟨.execute, s.e.observe⟩, ⟨.decode, s3.d.observe⟩, ⟨.fetch, s3.f.observe⟩] := by
  rw [cycleTrace, if_pos hev]
  simp only [h1, thenStage_running _ _ r1, h2, thenStage_running _ _ r2, h3,
    thenStage_running _ _ r3, h4, observeAfter_running r1, observeAfter_running r2,
    observeAfter_running r3, observeAfter_running r4]
  rw [m_after_writeback h1, (latches_after_memory h1 h2).1, f_after_decode h4]
  rfl

end Ends

end Trace

/-- Settles O55: where the cycle ends says how far the trace goes; Writeback and Memory leave the
younger latches alone, and Execute changes Decode's and Fetch's only by a taken branch. -/
theorem traceShowsEveryEvaluatedStage : Obligations.TraceShowsEveryEvaluatedStage := by
  intro s t h seen
  refine ⟨fun hn => if_neg hn, fun hev => ?_⟩
  rw [step_of_evaluates hev] at h
  rcases cycleCourse_of_cycle h with ⟨s1, h1, n1, ht⟩ | ⟨s1, s2, h1, r1, h2, n2, ht⟩ |
    ⟨s1, s2, s3, h1, r1, h2, r2, h3, n3, ht⟩ |
    ⟨s1, s2, s3, s4, h1, r1, h2, r2, h3, r3, h4, n4, ht⟩ |
    ⟨s1, s2, s3, s4, h1, r1, h2, r2, h3, r3, h4, r4, ht⟩ <;> rw [ht]
  case writeback =>
    rcases writebackStage_progress rfl h1 with ⟨-, hst, -⟩ | ⟨-, rfl⟩
    · exact absurd (hst.trans hev.1) n1
    · exact cycleTrace_writeback hev h1 n1
  case memory =>
    rcases memoryStage_progress rfl h2 with ⟨hst, -⟩ | rfl
    · exact absurd (hst.trans r1) n2
    · exact cycleTrace_memory hev h1 r1 h2 n2
  case execute =>
    rcases executeStage_progress rfl h3 with ⟨hst, -⟩ | ⟨k, rfl | rfl, rfl⟩
    · exact absurd (hst.trans r2) n3
    · exact cycleTrace_execute hev h1 r1 h2 r2 h3 n3
    · exact cycleTrace_execute hev h1 r1 h2 r2 h3 n3
  case decode =>
    have htrace := cycleTrace_decode hev h1 r1 h2 r2 h3 r3 h4 n4
    rcases decodeStage_progress rfl h4 with ⟨hst, -⟩ | ⟨p, hlive, rfl⟩
    · exact absurd (hst.trans r3) n4
    · obtain ⟨-, hd, -⟩ := latches_after_memory h1 h2
      rcases executeStage_d_f rfl h3 with ⟨hsame, -⟩ | ⟨hflush, -⟩
      · rw [hsame.trans hd] at htrace
        cases p <;> exact htrace
      · exact absurd (hflush.symm.trans hlive) nofun
  case whole =>
    have htrace := cycleTrace_whole hev h1 r1 h2 r2 h3 r3 h4 r4
    obtain ⟨-, hd, hf, -⟩ := latches_after_memory h1 h2
    rw [← takesBranch_after_memory h1 h2]
    constructor
    · intro hb
      obtain ⟨-, -, hd3, hf3⟩ := executeStage_of_not_takesBranch rfl h3 hb
      rw [hd3.trans hd, hf3.trans hf] at htrace
      exact htrace
    · intro hb
      rw [executeStage_of_takesBranch (s := { s2 with stage := .execute }) rfl hb] at h3
      cases h3
      rw [← hf]
      exact htrace

end Sys2Proof.Machine

namespace Sys2Proof

/-- The data address of a load or a store, from the registers (R200 to R204). -/
def Instr.address (x : Vector Word 16) : Instr → Word
  | .load _ rs1 imm | .store _ rs1 imm => x[rs1] + imm
  | .ldr _ rs1 rs2 | .str _ rs1 rs2 => x[rs1] + x[rs2]
  | .add _ _ _ | .sub _ _ _ | .mul _ _ _ | .div _ _ _ | .and _ _ _ | .or _ _ _ | .xor _ _ _
  | .addl _ _ _ | .subl _ _ _ | .movc _ _ | .cmp _ _ | .bz _ | .bnz _ | .halt => 0

end Sys2Proof

namespace Sys2Proof.Machine

section Sequential

/-! ### What the stages compute, against the sequential machine (R130)

Decode reads the operands of the sequential state, Execute computes a result or an address from
them, Memory completes the result, and Writeback writes it. -/

variable {c s t : State} {i : Instr} {a b : Arch}

/-- The sequential state after `i` at `a`; a HALT, or an instruction that stops on a fault, only
moves the address on. -/
def Arch.after (c : State) (i : Instr) (a : Arch) : Arch :=
  match seqExec c i a with
  | .next b => b
  | .halted _ => { a with pc := a.pc + 4 }
  | .stopped => { a with pc := a.pc + 4 }

theorem Arch.after_of_next (h : seqExec c i a = .next b) : a.after c i = b := by
  simp [Arch.after, h]

theorem Arch.after_of_stopped (h : seqExec c i a = .stopped) :
    a.after c i = { a with pc := a.pc + 4 } := by
  simp [Arch.after, h]

@[simp] theorem Arch.after_halt (c : State) (a : Arch) :
    a.after c .halt = { a with pc := a.pc + 4 } := rfl

/-- The latch carries the operands that `i` reads at `a` (R114). -/
def Latch.HasOperands (l : Latch) (i : Instr) (a : Arch) : Prop :=
  (∀ r, i.src1 = some r → l.sourceValue1 = a.x[r]) ∧
  (∀ r, i.src2 = some r → l.sourceValue2 = a.x[r])

/-- The latch carries what `i` at `a` writes at Writeback; the sequential machine does not stop. -/
def Latch.HasResult (c : State) (l : Latch) (i : Instr) (a : Arch) : Prop :=
  seqExec c i a ≠ .stopped ∧ ∀ rd, i.dest = some rd → (a.after c i).x[rd] = l.resultValue

/-- The latch carries what Execute computed for `i` at `a`: the address of a load or a store, the
result of any other instruction (R116). -/
def Latch.HasComputed (c : State) (l : Latch) (i : Instr) (a : Arch) : Prop :=
  if i.accessesMemory then l.memoryAddress = i.address a.x else l.HasResult c i a

/-- An instruction of the sequential machine that writes result `v`. -/
theorem hasResult_of_result {l : Latch} {rd : Reg} {v : Word} {z : Bool}
    (h : seqExec c i a = .next (a.result rd v z)) (hd : i.dest = some rd)
    (hl : l.resultValue = v) : l.HasResult c i a := by
  refine ⟨by simp [h], fun r hr => ?_⟩
  obtain rfl : rd = r := Option.some.inj (hd.symm.trans hr)
  simp [Arch.after_of_next h, Arch.result, hl]

/-- One without a destination. -/
theorem hasResult_of_no_dest {l : Latch} (h : seqExec c i a ≠ .stopped) (hd : i.dest = none) :
    l.HasResult c i a :=
  ⟨h, fun _ hr => absurd (hd.symm.trans hr) nofun⟩

/-- How a sequential instruction ends, and what it writes. -/
theorem seqExec_cases (c : State) (i : Instr) (a : Arch) :
    (∃ rd v z, i.dest = some rd ∧ seqExec c i a = .next (a.result rd v z)) ∨
    (i.dest = none ∧ ∃ b, seqExec c i a = .next b ∧ b.x = a.x) ∨
    (i = .halt ∧ seqExec c i a = .halted a) ∨ seqExec c i a = .stopped := by
  have load {rd : Reg} (addr : Word) (hd : i.dest = some rd)
      (h : seqExec c i a = a.loadFrom c rd addr) :
      (∃ rd v z, i.dest = some rd ∧ seqExec c i a = .next (a.result rd v z)) ∨
        seqExec c i a = .stopped := by
    rw [h]
    unfold Arch.loadFrom
    cases c.cellIndex addr with
    | none => exact .inr rfl
    | some k => exact .inl ⟨rd, _, _, hd, rfl⟩
  have store {r : Reg} (addr : Word) (h : seqExec c i a = a.storeTo c r addr) :
      (∃ b, seqExec c i a = .next b ∧ b.x = a.x) ∨ seqExec c i a = .stopped := by
    rw [h]
    unfold Arch.storeTo
    cases c.cellIndex addr with
    | none => exact .inr rfl
    | some k => exact .inl ⟨_, rfl, rfl⟩
  cases i with
  | add | sub | mul | and | or | xor | addl | subl | movc => exact .inl ⟨_, _, _, rfl, rfl⟩
  | div rd rs1 rs2 =>
    unfold seqExec
    dsimp only
    split
    · exact .inr (.inr (.inr rfl))
    · exact .inl ⟨_, _, _, rfl, rfl⟩
  | load rd rs1 imm => exact (load _ rfl rfl).imp_right fun h => .inr (.inr h)
  | ldr rd rs1 rs2 => exact (load _ rfl rfl).imp_right fun h => .inr (.inr h)
  | store r | str r => exact .inr ((store _ rfl).imp (fun h => ⟨rfl, h⟩) .inr)
  | cmp | bz | bnz => exact .inr (.inl ⟨rfl, _, rfl, rfl⟩)
  | halt => exact .inr (.inr (.inl ⟨rfl, rfl⟩))

/-- A sequential instruction writes no register but its destination (R21). -/
theorem Arch.after_x (c : State) (i : Instr) (a : Arch) :
    (a.after c i).x = i.dest.elim a.x (fun rd => a.x.set rd (a.after c i).x[rd]) := by
  have same (h : (a.after c i).x = a.x) :
      (a.after c i).x = i.dest.elim a.x (fun rd => a.x.set rd (a.after c i).x[rd]) := by
    rw [h]
    cases i.dest <;> simp
  rcases seqExec_cases c i a with ⟨rd, v, z, hd, h⟩ | ⟨-, b, h, hx⟩ | ⟨rfl, -⟩ | h
  · simp [Arch.after_of_next h, hd, Arch.result]
  · exact same (Arch.after_of_next h ▸ hx)
  · exact same rfl
  · exact same (Arch.after_of_stopped h ▸ rfl)

/-- Nor any register that is not its destination. -/
theorem Arch.after_x_other {r : Reg} (h : i.dest ≠ some r) : (a.after c i).x[r] = a.x[r] := by
  rw [Arch.after_x]
  cases hd : i.dest with
  | none => rfl
  | some rd =>
    have hne : rd.val ≠ r.val := fun e => h (hd.trans (congrArg some (Fin.ext e)))
    simp [hne]

/-! ### Execute -/

/-- Outside loads and stores Execute computes the result. -/
theorem hasComputed_of_hasResult {l : Latch} (hm : i.accessesMemory = false)
    (h : l.HasResult c i a) : l.HasComputed c i a := by
  simpa [Latch.HasComputed, hm] using h

theorem hasComputed_of_address {l : Latch} (hm : i.accessesMemory = true)
    (h : l.memoryAddress = i.address a.x) : l.HasComputed c i a := by
  simpa [Latch.HasComputed, hm] using h

/-- A load or a store leaves Z alone, whether or not it stops. -/
theorem Arch.after_z_of_accessesMemory (hm : i.accessesMemory = true) :
    (a.after c i).z = a.z := by
  have load (rd : Reg) (addr : Word) (h : seqExec c i a = a.loadFrom c rd addr) :
      (a.after c i).z = a.z := by
    unfold Arch.after
    rw [h]
    unfold Arch.loadFrom
    cases c.cellIndex addr <;> rfl
  have store (r : Reg) (addr : Word) (h : seqExec c i a = a.storeTo c r addr) :
      (a.after c i).z = a.z := by
    unfold Arch.after
    rw [h]
    unfold Arch.storeTo
    cases c.cellIndex addr <;> rfl
  cases i with
  | load rd | ldr rd => exact load rd _ rfl
  | store r | str r => exact store r _ rfl
  | _ => cases hm

theorem State.executeBranch_status (s : State) (k : Bool) (imm : Word) :
    (s.executeBranch k imm).status = s.status := by
  cases k <;> rfl

theorem State.executeCompare_status (s : State) : s.executeCompare.status = s.status := by
  rcases s.executeCompare_cases with ⟨-, e⟩ | ⟨-, e⟩ <;> rw [e] <;> rfl

/-- DIV divides where the sequential machine does, and raises its fault where that stops (R164). -/
theorem divWord_eq (x y : Word) :
    ((y.toInt = 0 ∨ (x.toInt = -2 ^ 31 ∧ y.toInt = -1)) ∧ ∃ k, divWord x y = .error k) ∨
    (¬(y.toInt = 0 ∨ (x.toInt = -2 ^ 31 ∧ y.toInt = -1)) ∧ divWord x y = .ok (x.sdiv y)) := by
  by_cases h0 : y.toInt = 0
  · exact .inl ⟨.inl h0, _, (divWord_zero_iff x y).mpr h0⟩
  · by_cases h1 : x.toInt = -2 ^ 31 ∧ y.toInt = -1
    · exact .inl ⟨.inr h1, _, (divWord_overflow_iff x y).mpr h1⟩
    · exact .inr ⟨fun h => h.elim h0 h1, divWord_ok_sdiv x y h0 h1⟩

/-- What Execute of `i` makes of state `s`, against the sequential machine at `a`: its fault where
that machine stops, or the flag after `i` and the computed result or address. -/
def ExecutedAs (c : State) (i : Instr) (a : Arch) (s u : State) : Prop :=
  (seqExec c i a = .stopped ∧ ∃ k info, u = s.raiseFault k info) ∨
  (u.status = s.status ∧ u.z = (a.after c i).z ∧ u.m.HasComputed c i a)

theorem ExecutedAs.of_result {u : State} {rd : Reg} {v : Word}
    (h : seqExec c i a = .next (a.result rd v true)) (hd : i.dest = some rd)
    (hm : i.accessesMemory = false) (hst : u.status = s.status) (hz : u.z = decide (v = 0))
    (hv : u.m.resultValue = v) : ExecutedAs c i a s u :=
  .inr ⟨hst, by rw [Arch.after_of_next h, hz]; rfl,
    hasComputed_of_hasResult hm (hasResult_of_result h hd hv)⟩

/-- Execute of `i` with the operands and the flag of `a`. -/
theorem executeStage_sequential (hs : s.stage = .execute) (hi : s.e.holds i)
    (hop : s.e.HasOperands i a) (hz : a.z = s.z) :
    ∃ u, executeStage s = .next u ∧ ExecutedAs c i a s u := by
  obtain ⟨h1, h2⟩ := hop
  refine ⟨_, (executeStage_of_holds hi).trans (exec_execute i s hs), ?_⟩
  cases i with
  | add rd rs1 rs2 | sub rd rs1 rs2 | mul rd rs1 rs2 | and rd rs1 rs2 | or rd rs1 rs2
  | xor rd rs1 rs2 =>
    dsimp only
    rw [h1 rs1 rfl, h2 rs2 rfl]
    exact .of_result rfl rfl rfl rfl rfl rfl
  | movc rd imm => exact .of_result rfl rfl rfl rfl rfl rfl
  | div rd rs1 rs2 =>
    dsimp only
    rw [h1 rs1 rfl, h2 rs2 rfl]
    rcases divWord_eq a.x[rs1] a.x[rs2] with ⟨hstop, k, hk⟩ | ⟨hgo, hv⟩
    · rw [hk]
      exact .inl ⟨if_pos hstop, k, _, rfl⟩
    · rw [hv]
      exact .of_result (if_neg hgo) rfl rfl rfl rfl rfl
  | addl rd rs1 imm | subl rd rs1 imm =>
    dsimp only
    rw [h1 rs1 rfl]
    exact .inr ⟨rfl, hz.symm, hasComputed_of_hasResult rfl (hasResult_of_result rfl rfl rfl)⟩
  | load rd rs1 imm | store rd rs1 imm =>
    refine .inr ⟨rfl, ?_, hasComputed_of_address rfl (congrArg (· + imm) (h1 rs1 rfl))⟩
    rw [Arch.after_z_of_accessesMemory rfl, hz]
    rfl
  | ldr rd rs1 rs2 | str rd rs1 rs2 =>
    refine .inr ⟨rfl, ?_,
      hasComputed_of_address rfl (congrArg₂ (· + ·) (h1 rs1 rfl) (h2 rs2 rfl))⟩
    rw [Arch.after_z_of_accessesMemory rfl, hz]
    rfl
  | cmp rs1 rs2 =>
    refine .inr ⟨s.executeCompare_status, ?_,
      hasComputed_of_hasResult rfl (hasResult_of_no_dest nofun rfl)⟩
    rw [s.executeCompare_z, h1 rs1 rfl, h2 rs2 rfl]
    rfl
  | bz imm | bnz imm =>
    refine .inr ⟨s.executeBranch_status _ _, ?_,
      hasComputed_of_hasResult rfl (hasResult_of_no_dest nofun rfl)⟩
    rw [s.executeBranch_z, ← hz]
    rfl
  | halt =>
    exact .inr ⟨rfl, hz.symm, hasComputed_of_hasResult rfl (hasResult_of_no_dest nofun rfl)⟩

/-! ### Memory and Writeback -/

/-- Only a load or a store stops after Execute, or touches data memory. -/
theorem Arch.after_dmem (hm : i.accessesMemory = false) : (a.after c i).dmem = a.dmem := by
  cases i with
  | load | store | ldr | str => cases hm
  | div rd rs1 rs2 =>
    unfold Arch.after seqExec
    dsimp only
    split_ifs <;> rfl
  | _ => rfl

/-- What Memory of `i` makes of state `s`, against the sequential machine at `a`: the access fault
where that machine stops, or the data memory after `i` and the result to write. -/
def AccessedAs (c : State) (i : Instr) (a : Arch) (s u : State) : Prop :=
  (seqExec c i a = .stopped ∧ ∃ k info, u = s.raiseFault k info) ∨
  (u.status = s.status ∧ u.dmem = (a.after c i).dmem ∧ u.w.HasResult c i a)

/-- Memory of `i` with the registers, the data memory and the computed result or address of `a`. -/
theorem memoryStage_sequential (hs : s.stage = .memory) (hi : s.m.holds i)
    (hcfg : s.cfg = c.cfg) (hx : a.x = s.x) (hmem : a.dmem = s.dmem)
    (hcomp : s.m.HasComputed c i a) :
    ∃ u, memoryStage s = .next u ∧ AccessedAs c i a s u := by
  have hcell (w : Word) : c.cellIndex w = s.cellIndex w := by
    simp only [State.cellIndex, hcfg]
  have address (hm : i.accessesMemory = true) : i.address a.x = s.m.memoryAddress := by
    simpa [Latch.HasComputed, hm, eq_comm] using hcomp
  have load {rd : Reg} (hd : i.dest = some rd) (hm : i.accessesMemory = true)
      (h : seqExec c i a = a.loadFrom c rd (i.address a.x)) :
      AccessedAs c i a s s.memoryLoad := by
    rw [address hm, Arch.loadFrom, hcell] at h
    rcases s.memoryLoad_cases with ⟨hn, e⟩ | ⟨k, hk, e⟩ <;> rw [e]
    · rw [hn] at h
      exact .inl ⟨h, _, _, rfl⟩
    · rw [hk] at h
      refine .inr ⟨rfl, ?_, hasResult_of_result h hd (congrArg (·.read k) hmem.symm)⟩
      rw [Arch.after_of_next h]
      exact hmem.symm
  have store {r : Reg} (hd : i.dest = none) (hm : i.accessesMemory = true)
      (h : seqExec c i a = a.storeTo c r (i.address a.x)) :
      AccessedAs c i a s (s.memoryStore r) := by
    rw [address hm, Arch.storeTo, hcell] at h
    rcases s.memoryStore_cases r with ⟨hn, e⟩ | ⟨k, hk, e⟩ <;> rw [e]
    · rw [hn] at h
      exact .inl ⟨h, _, _, rfl⟩
    · rw [hk] at h
      refine .inr ⟨rfl, ?_, hasResult_of_no_dest (by rw [h]; nofun) hd⟩
      rw [Arch.after_of_next h, hx, hmem]
      rfl
  have pass (hm : i.accessesMemory = false) : AccessedAs c i a s s.passMemory :=
    .inr ⟨rfl, ((Arch.after_dmem hm).trans hmem).symm,
      by simpa [Latch.HasComputed, hm] using hcomp⟩
  refine ⟨_, (memoryStage_of_holds hi).trans (exec_memory i s hs), ?_⟩
  cases i with
  | load | ldr => exact load rfl rfl rfl
  | store | str => exact store rfl rfl rfl
  | _ => exact pass rfl

/-- Writeback of `i` with the registers of `a` leaves those of the sequential machine after `i`. -/
theorem writebackStage_sequential (hs : s.stage = .writeback) (h : writebackStage s = .next t)
    (hi : s.w.holds i) (hx : a.x = s.x) (hres : s.w.HasResult c i a) : t.x = (a.after c i).x := by
  obtain ⟨-, hv⟩ := hres
  rw [(writebackStage_writes hs h).1, Arch.after_x, Latch.dest_of_holds hi, hx]
  cases hd : i.dest with
  | none => rfl
  | some rd => exact congrArg (s.x.set rd ·) (hv rd hd).symm

/-! ### One instruction through the pipeline -/

/-- An issued latch carries the operands of every sequential state that has the values of its
sources. -/
theorem hasOperands_of_issue (s : State) (i : Instr)
    (hx : ∀ r, i.src1 = some r ∨ i.src2 = some r → s.x[r] = a.x[r]) :
    (s.issue i).e.HasOperands i a := by
  rw [State.issue_e]
  constructor
  · intro r hr
    rw [State.readSources_sourceValue1, hr]
    exact hx r (.inl hr)
  · intro r hr
    rw [State.readSources_sourceValue2, hr]
    exact hx r (.inr hr)

/-- The passage ended in a fault that left registers, data memory and retirements as in `s`. -/
def PassageFaulted (s t : State) : Prop :=
  (∃ k info, t.status = .faulted k info) ∧ t.x = s.x ∧ t.dmem = s.dmem ∧
    t.insnCompleted = s.insnCompleted

/-- The passage of `i` ended in the sequential state after `i` at `a`, with one more retirement. -/
def PassageCompleted (i : Instr) (a : Arch) (s t : State) : Prop :=
  t.x = (a.after s i).x ∧ t.z = (a.after s i).z ∧ t.dmem = (a.after s i).dmem ∧
    t.insnCompleted = s.insnCompleted + 1 ∧ t.w.hasInstruction = false ∧
    t.status = if i = .halt then .halted else .running

/-- Writeback ends the passage, with the registers, the flag and the data memory of the sequential
machine. -/
theorem passage_writeback {u : State} (hrun : u.status = .running) (hw : u.w.holds i)
    (hx : a.x = u.x) (hres : u.w.HasResult s i a) (hz : u.z = (a.after s i).z)
    (hmem : u.dmem = (a.after s i).dmem) (hn : u.insnCompleted = s.insnCompleted) :
    ∃ t, exec i { u with stage := .writeback } = .next t ∧ PassageCompleted i a s t := by
  have hex := exec_writeback i { u with stage := .writeback } rfl
  have hwb := (writebackStage_of_holds (s := { u with stage := .writeback }) hw).trans hex
  have ht := writebackStage_sequential (s := { u with stage := .writeback }) rfl hwb hw hx hres
  have hcount := congrArg (· + 1) hn
  refine ⟨_, hex, ht, ?_⟩
  split
  · exact ⟨hz, hmem, hcount, rfl, rfl⟩
  · refine ⟨?_, ?_, ?_, rfl, ?_⟩ <;> simpa

/-- From Memory on: the access fault, or the completed passage. -/
theorem passage_memory {u : State} (hrun : u.status = .running) (hm : u.m.holds i)
    (hcfg : u.cfg = s.cfg) (hx : a.x = u.x) (hmem : a.dmem = u.dmem)
    (hcomp : u.m.HasComputed s i a) (hz : u.z = (a.after s i).z)
    (hn : u.insnCompleted = s.insnCompleted) :
    ∃ t, thenStage (exec i { u with stage := .memory }) .writeback (exec i) = .next t ∧
      ((seqExec s i a = .stopped ∧ PassageFaulted u t) ∨
        (seqExec s i a ≠ .stopped ∧ PassageCompleted i a s t)) := by
  obtain ⟨v, hv, hacc⟩ :=
    memoryStage_sequential (s := { u with stage := .memory }) rfl hm hcfg hx hmem hcomp
  rw [← memoryStage_of_holds (s := { u with stage := .memory }) hm, hv]
  rcases hacc with ⟨hstop, k, info, rfl⟩ | ⟨hst, hmem', hres⟩
  · exact ⟨_, thenStage_stopped _ _ (by simp), .inl ⟨hstop, ⟨k, info, rfl⟩, rfl, rfl, rfl⟩⟩
  · have hvr : v.status = .running := hst.trans hrun
    have hframe := memoryStage_frame rfl hv
    have hw : v.w.holds i := Latch.holds_of_withoutValues
      (memoryStage_moves_of_running rfl hv hvr).1.symm hm
    have hvx : v.x = u.x := by rw [hframe]
    have hvz : v.z = u.z := by rw [hframe]
    have hvn : v.insnCompleted = u.insnCompleted := by rw [hframe]
    rw [thenStage_running _ _ hvr]
    obtain ⟨t, ht, hdone⟩ := passage_writeback hvr hw (hx.trans hvx.symm) hres (hvz.trans hz) hmem'
      (hvn.trans hn)
    exact ⟨t, ht, .inr ⟨hres.1, hdone⟩⟩

/-- The passage of `i` from a Decode latch whose sources are ready. -/
theorem throughPipeline_sequential (hrun : s.status = .running) (hd : s.d.holds i)
    (hready : s.SourcesReady i.src1 i.src2) (hx : a.x = s.x) (hz : a.z = s.z)
    (hmem : a.dmem = s.dmem) :
    ∃ t, throughPipeline i s = .next t ∧
      ((seqExec s i a = .stopped ∧ PassageFaulted s t) ∨
        (seqExec s i a ≠ .stopped ∧ PassageCompleted i a s t)) := by
  obtain ⟨v, hv⟩ : ∃ v, v = State.issue { s with stage := .decode } i := ⟨_, rfl⟩
  have hdec : exec i { s with stage := .decode } = .next v := by
    rw [← decodeStage_of_holds (s := { s with stage := .decode }) hd, hv]
    exact decodeStage_issues rfl hd hready
  have hve : v.e.holds i := by
    rw [hv, State.issue_e]
    exact hd
  have hop : v.e.HasOperands i a := hv ▸ hasOperands_of_issue { s with stage := .decode } i
    fun r _ => by rw [hx]
  rw [State.issue_frame] at hv
  have hvr : v.status = .running := by rw [hv]; exact hrun
  obtain ⟨u, hu, hexec⟩ := executeStage_sequential (c := s) (s := { v with stage := .execute }) rfl
    hve hop (by rw [hv]; exact hz)
  have hframe := executeStage_frame rfl hu
  have hux : u.x = s.x := by rw [hframe, hv]
  have hud : u.dmem = s.dmem := by rw [hframe, hv]
  have hun : u.insnCompleted = s.insnCompleted := by rw [hframe, hv]
  have hucfg : u.cfg = s.cfg := by rw [hframe, hv]
  unfold throughPipeline
  dsimp only
  rw [hdec, thenStage_running _ _ hvr,
    ← executeStage_of_holds (s := { v with stage := .execute }) hve, hu]
  rcases hexec with ⟨hstop, k, info, hf⟩ | ⟨hst, huz, hcomp⟩
  · have hnot : u.status ≠ .running := by simp [hf]
    rw [thenStage_stopped _ _ hnot, thenStage_stopped _ _ hnot]
    exact ⟨u, rfl, .inl ⟨hstop, ⟨k, info, by rw [hf]; rfl⟩, hux, hud, hun⟩⟩
  · have hur : u.status = .running := hst.trans hvr
    have hm : u.m.holds i := Latch.holds_of_withoutValues
      (executeStage_moves_of_running rfl hu hur).1.symm hve
    rw [thenStage_running _ _ hur]
    obtain ⟨t, ht, hend⟩ := passage_memory hur hm hucfg (hx.trans hux.symm)
      (hmem.trans hud.symm) hcomp huz hun
    refine ⟨t, ht, hend.imp_left fun ⟨hstop, hfault, htx, htd, htn⟩ => ?_⟩
    exact ⟨hstop, hfault, htx.trans hux, htd.trans hud, htn.trans hun⟩

end Sequential

/-- Settles O18: the passage ends as the sequential machine does. -/
theorem instructionAloneHasItsSequentialEffect :
    Obligations.InstructionAloneHasItsSequentialEffect := by
  intro i s hrun hd hr1 hr2
  obtain ⟨t, ht, hend⟩ := throughPipeline_sequential (a := ⟨s.x, s.z, s.dmem, s.d.pc⟩) hrun hd
    ⟨hr1, hr2⟩ rfl rfl rfl
  cases hseq : seqExec s i ⟨s.x, s.z, s.dmem, s.d.pc⟩ with
  | next b =>
    rcases hend with ⟨hstop, -⟩ | ⟨-, hx, hz, hm, hn, hw, hst⟩
    · exact absurd (hseq.symm.trans hstop) nofun
    · have hi : i ≠ .halt := by rintro rfl; cases hseq
      rw [Arch.after_of_next hseq] at hx hz hm
      exact ⟨t, ht, hx, hz, hm, hn, hst.trans (if_neg hi), hw⟩
  | halted b =>
    rcases hend with ⟨hstop, -⟩ | ⟨-, hx, hz, hm, hn, hw, hst⟩
    · exact absurd (hseq.symm.trans hstop) nofun
    · rcases seqExec_cases s i ⟨s.x, s.z, s.dmem, s.d.pc⟩ with ⟨rd, v, z, -, h⟩ | ⟨-, b, h, -⟩ |
        ⟨rfl, h⟩ | h
      · exact absurd (hseq.symm.trans h) nofun
      · exact absurd (hseq.symm.trans h) nofun
      · cases hseq
        exact ⟨t, ht, hx, hz, hm, hn, hst⟩
      · exact absurd (hseq.symm.trans h) nofun
  | stopped =>
    rcases hend with ⟨-, ⟨k, info, hst⟩, hx, hm, hn⟩ | ⟨hgo, -⟩
    · exact ⟨t, k, info, ht, hst, hx, hm, hn⟩
    · exact absurd hseq hgo

section Path

/-! ### The address of the next instruction (R118, R230, R231) -/

variable {c s : State} {i : Instr} {a : Arch}

/-- A taken branch goes where the sequential machine goes; CMP's `imm` is 0 (R83, R172). -/
theorem Arch.after_pc_of_takesBranch (hi : s.e.holds i) (hop : s.e.HasOperands i a)
    (hz : a.z = s.z) (hcfg : s.cfg = c.cfg) (hpc : s.e.pc = a.pc)
    (himm : i.opcode = .cmp → s.e.imm = 0) (hb : s.e.TakesBranch s) :
    (a.after c i).pc = s.e.pc + s.e.imm := by
  rcases hb with ⟨imm, hj, hzt⟩ | ⟨imm, hj, hzf⟩ | ⟨rs1, rs2, hj, hfall, heq⟩ <;>
    obtain rfl := Latch.holds_unique hi hj
  · obtain rfl : s.e.imm = imm := Instr.bz.inj (Latch.recordOf_instr_of_holds hi)
    simp [Arch.after, seqExec, hz, hzt, hpc]
  · obtain rfl : s.e.imm = imm := Instr.bnz.inj (Latch.recordOf_instr_of_holds hi)
    simp [Arch.after, seqExec, hz, hzf, hpc]
  · have hx : a.x[rs1] = a.x[rs2] := (hop.1 rs1 rfl).symm.trans (heq.trans (hop.2 rs2 rfl))
    rw [himm rfl]
    simp only [Arch.after, seqExec, ← hcfg, hfall, hx, hpc]
    simp

/-- Without a taken branch the next instruction is 4 units on. -/
theorem Arch.after_pc_of_not_takesBranch (hi : s.e.holds i) (hop : s.e.HasOperands i a)
    (hz : a.z = s.z) (hcfg : s.cfg = c.cfg) (hb : ¬s.e.TakesBranch s) :
    (a.after c i).pc = a.pc + 4 := by
  have load (rd : Reg) (addr : Word) (h : seqExec c i a = a.loadFrom c rd addr) :
      (a.after c i).pc = a.pc + 4 := by
    unfold Arch.after
    rw [h]
    unfold Arch.loadFrom
    cases c.cellIndex addr <;> rfl
  have store (r : Reg) (addr : Word) (h : seqExec c i a = a.storeTo c r addr) :
      (a.after c i).pc = a.pc + 4 := by
    unfold Arch.after
    rw [h]
    unfold Arch.storeTo
    cases c.cellIndex addr <;> rfl
  cases i with
  | load rd | ldr rd => exact load rd _ rfl
  | store r | str r => exact store r _ rfl
  | div rd rs1 rs2 =>
    unfold Arch.after seqExec
    dsimp only
    split_ifs <;> rfl
  | bz imm =>
    have hzf : a.z = false := Bool.eq_false_of_not_eq_true fun h =>
      hb (.inl ⟨imm, hi, hz.symm.trans h⟩)
    simp [Arch.after, seqExec, hzf]
  | bnz imm =>
    have hzt : a.z = true := Bool.eq_true_of_not_eq_false fun h =>
      hb (.inr (.inl ⟨imm, hi, hz.symm.trans h⟩))
    simp [Arch.after, seqExec, hzt]
  | cmp rs1 rs2 =>
    have hno : ¬(c.cfg.cmpFallthrough = true ∧ a.x[rs1] = a.x[rs2]) := fun ⟨hfall, hx⟩ =>
      hb (.inr (.inr ⟨rs1, rs2, hi, hcfg ▸ hfall,
        (hop.1 rs1 rfl).trans (hx.trans (hop.2 rs2 rfl).symm)⟩))
    simp only [Arch.after, seqExec, Bool.and_eq_true, decide_eq_true_eq, if_neg hno]
  | _ => rfl

end Path

section Simulation

/-! ### The pipeline follows the sequential machine (R130)

Three sequential states go with the pipeline: `a` after the retired instructions, `b` after the
instruction in Writeback, `d` after the one in Memory too. Each stage moves them on. -/

variable {c s t : State} {i : Instr} {a b d : Arch}

/-- The sequential state once the instruction in the latch is done. -/
def Latch.complete (c : State) (l : Latch) (a : Arch) : Arch :=
  if l.hasInstruction then l.instr.elim a (a.after c) else a

theorem Latch.complete_of_dead {l : Latch} (h : l.hasInstruction = false) :
    l.complete c a = a := by
  simp [Latch.complete, h]

theorem Latch.complete_of_holds {l : Latch} (h : l.holds i) : l.complete c a = a.after c i := by
  simp [Latch.complete, h.1, h.2]

theorem Latch.complete_of_withoutValues {l l' : Latch} (h : l'.withoutValues = l.withoutValues) :
    l'.complete c a = l.complete c a := by
  change l'.withoutValues.complete c a = l.withoutValues.complete c a
  rw [h]

theorem Latch.pc_of_withoutValues {l l' : Latch} (h : l'.withoutValues = l.withoutValues) :
    l'.pc = l.pc :=
  congrArg (fun k => k.pc) h

/-- Only the latch's destination is written. -/
theorem Latch.complete_x_other {l : Latch} {r : Reg} (h : l.dest ≠ some r) :
    (l.complete c a).x[r] = a.x[r] := by
  cases hl : l.hasInstruction with
  | false => rw [Latch.complete_of_dead hl]
  | true =>
    cases hi : l.instr with
    | none => simp [Latch.complete, hi]
    | some i =>
      have hh : l.holds i := ⟨hl, hi⟩
      rw [Latch.complete_of_holds hh]
      exact Arch.after_x_other fun hd => h ((Latch.dest_of_holds hh).trans hd)

/-- The address of the instruction that Decode issues next: the one in its latch, or the one that
Fetch forwards next. -/
def State.issuePc (s : State) : Word := if s.d.hasInstruction then s.d.pc else s.pc

/-- The pipeline state against the sequential states: the retired instructions have written the
registers, Memory has been reached by all before `b`, Execute by all before `d`. Behind an
instruction in Execute the pipeline goes straight on. -/
structure Follows (c s : State) (a b d : Arch) : Prop where
  before_memory : b = s.w.complete c a
  before_execute : d = s.m.complete c b
  x : a.x = s.x
  dmem : b.dmem = s.dmem
  z : d.z = s.z
  w_pc : s.w.hasInstruction = true → s.w.pc = a.pc
  w_result : ∀ i, s.w.holds i → s.w.HasResult c i a
  m_pc : s.m.hasInstruction = true → s.m.pc = b.pc
  m_computed : ∀ i, s.m.holds i → s.m.HasComputed c i b
  e_pc : s.e.hasInstruction = true → s.e.pc = d.pc
  e_operands : ∀ i, s.e.holds i → s.e.HasOperands i d
  issue_pc : s.issuePc = if s.e.hasInstruction then s.e.pc + 4 else d.pc
  fetch_pc : s.d.hasInstruction = true → s.pc = s.d.pc + 4
  held_pc : s.fHeld = true → s.f.pc = s.pc

/-- It rests on none of the fields listed. -/
theorem Follows.congr (h : Follows c s a b d) (ht : t = { s with
      cfg := t.cfg, istore := t.istore, scoreboard := t.scoreboard, redirect := t.redirect
      clock := t.clock, insnCompleted := t.insnCompleted, status := t.status
      fIsStalled := t.fIsStalled, dIsStalled := t.dIsStalled, stage := t.stage }) :
    Follows c t a b d := by
  rw [ht]
  exact { h with }

/-- Writeback of an instruction moves `a` on to `b`. -/
theorem Follows.writeback (h : Follows c s a b d) (hs : s.stage = .writeback)
    (hwb : writebackStage s = .next t) (hw : s.w.holds i) : Follows c t b b d := by
  have hb : b = a.after c i := h.before_memory.trans (Latch.complete_of_holds hw)
  have hx : b.x = t.x := by
    rw [hb]
    exact (writebackStage_sequential hs hwb hw h.x (h.w_result i hw)).symm
  have hdead := writebackStage_w_dead hs hwb
  rw [writebackStage_frame hs hwb]
  exact { h with
    before_memory := (Latch.complete_of_dead hdead).symm
    x := hx
    w_pc := fun hl => absurd (hdead.symm.trans hl) nofun
    w_result := fun _ hl => absurd hl (Latch.not_holds_of_dead hdead) }

/-- Memory completes the instruction of its latch: it leaves the data memory of `d`, and the result
of what it hands on. -/
theorem Follows.memory_completes (h : Follows c s a b d) (hs : s.stage = .memory)
    (hmem : memoryStage s = .next t) (hrun : t.status = .running) (hcfg : s.cfg = c.cfg)
    (hx : b.x = s.x) : d.dmem = t.dmem ∧ ∀ i, t.w.holds i → t.w.HasResult c i b := by
  obtain ⟨hmoved, -⟩ := memoryStage_moves_of_running hs hmem hrun
  rcases memoryStage_cases hs hmem with ⟨hm, rfl⟩ | ⟨i, hi, -⟩
  · have hdb : d = b := h.before_execute.trans (Latch.complete_of_dead hm)
    exact ⟨hdb ▸ h.dmem, fun i hl => absurd hl (Latch.not_holds_of_dead hm)⟩
  · obtain ⟨u, hu, hacc⟩ :=
      memoryStage_sequential (c := c) hs hi hcfg hx h.dmem (h.m_computed i hi)
    cases hmem.symm.trans hu
    rcases hacc with ⟨-, k, info, rfl⟩ | ⟨-, hd, hres⟩
    · cases hrun
    · refine ⟨?_, fun j hj => ?_⟩
      · rw [hd, h.before_execute, Latch.complete_of_holds hi]
      · obtain rfl := Latch.holds_unique hi (Latch.holds_of_withoutValues hmoved hj)
        exact hres

/-- Memory moves `b` on to `d`, its own latch being handed to an empty Writeback latch. -/
theorem Follows.memory (h : Follows c s a b d) (hs : s.stage = .memory)
    (hmem : memoryStage s = .next t) (hrun : t.status = .running) (hcfg : s.cfg = c.cfg)
    (hw : s.w.hasInstruction = false) : Follows c t a d d := by
  obtain rfl : b = a := h.before_memory.trans (Latch.complete_of_dead hw)
  obtain ⟨hmoved, hdead⟩ := memoryStage_moves_of_running hs hmem hrun
  obtain ⟨hd, hres⟩ := h.memory_completes hs hmem hrun hcfg h.x
  have hlive := Latch.hasInstruction_of_withoutValues hmoved
  rw [memoryStage_frame hs hmem]
  exact { h with
    before_memory := h.before_execute.trans (Latch.complete_of_withoutValues hmoved).symm
    before_execute := (Latch.complete_of_dead hdead).symm
    dmem := hd
    w_pc := fun hl => (Latch.pc_of_withoutValues hmoved).trans (h.m_pc (hlive.symm.trans hl))
    w_result := hres
    m_pc := fun hl => absurd (hdead.symm.trans hl) nofun
    m_computed := fun _ hl => absurd hl (Latch.not_holds_of_dead hdead) }

/-- Execute leaves the flag after its latch's instruction, and hands on what it computed for it. -/
theorem Follows.execute_computes (h : Follows c s a b d) (hs : s.stage = .execute)
    (hex : executeStage s = .next t) (hrun : t.status = .running) :
    (s.e.complete c d).z = t.z ∧ ∀ i, t.m.holds i → t.m.HasComputed c i d := by
  obtain ⟨hmoved, -⟩ := executeStage_moves_of_running hs hex hrun
  rcases executeStage_cases hs hex with ⟨he, rfl⟩ | ⟨i, hi, -⟩
  · rw [Latch.complete_of_dead he]
    exact ⟨h.z, fun i hl => absurd hl (Latch.not_holds_of_dead he)⟩
  · obtain ⟨u, hu, hexec⟩ := executeStage_sequential (c := c) hs hi (h.e_operands i hi) h.z
    cases hex.symm.trans hu
    rw [Latch.complete_of_holds hi]
    rcases hexec with ⟨-, k, info, rfl⟩ | ⟨-, hz, hcomp⟩
    · cases hrun
    · refine ⟨hz.symm, fun j hj => ?_⟩
      obtain rfl := Latch.holds_unique hi (Latch.holds_of_withoutValues hmoved hj)
      exact hcomp

/-- After Execute the next instruction to issue is the sequential machine's, and Fetch is behind
it. -/
theorem Follows.execute_path (h : Follows c s a b d) (hs : s.stage = .execute)
    (hex : executeStage s = .next t) (hcfg : s.cfg = c.cfg)
    (hheld : s.e.hasInstruction = true → s.fHeld = false)
    (himm : ∀ i, s.e.holds i → i.opcode = .cmp → s.e.imm = 0) :
    t.issuePc = (s.e.complete c d).pc ∧ (t.d.hasInstruction = true → t.pc = t.d.pc + 4) ∧
      (s.fHeld = true → t.f.pc = t.pc) := by
  have hissue := h.issue_pc
  rcases executeStage_cases hs hex with ⟨he, rfl⟩ | ⟨i, hi, -⟩
  · rw [Latch.complete_of_dead he]
    rw [he] at hissue
    exact ⟨hissue, h.fetch_pc, h.held_pc⟩
  · have hop := h.e_operands i hi
    have hpc := h.e_pc hi.1
    rw [Latch.complete_of_holds hi]
    by_cases hb : s.e.TakesBranch s
    · cases hex.symm.trans (executeStage_of_takesBranch hs hb)
      refine ⟨?_, nofun, fun hh => absurd ((hheld hi.1).symm.trans hh) nofun⟩
      exact (Arch.after_pc_of_takesBranch hi hop h.z hcfg hpc (himm i hi) hb).symm
    · obtain ⟨tpc, -, td, tf⟩ := executeStage_of_not_takesBranch hs hex hb
      rw [hi.1, if_pos rfl, hpc] at hissue
      rw [Arch.after_pc_of_not_takesBranch hi hop h.z hcfg hb, State.issuePc, tpc, td, tf]
      exact ⟨hissue, h.fetch_pc, h.held_pc⟩

/-- Execute moves `d` on past its own latch's instruction, which it hands to an empty Memory latch.
-/
theorem Follows.execute (h : Follows c s a b d) (hs : s.stage = .execute)
    (hex : executeStage s = .next t) (hrun : t.status = .running) (hcfg : s.cfg = c.cfg)
    (hm : s.m.hasInstruction = false) (hheld : s.e.hasInstruction = true → s.fHeld = false)
    (himm : ∀ i, s.e.holds i → i.opcode = .cmp → s.e.imm = 0) :
    Follows c t a b (s.e.complete c d) := by
  obtain rfl : d = b := h.before_execute.trans (Latch.complete_of_dead hm)
  obtain ⟨hmoved, hdead⟩ := executeStage_moves_of_running hs hex hrun
  obtain ⟨hz, hcomp⟩ := h.execute_computes hs hex hrun
  obtain ⟨hissue, hfetch, hheld'⟩ := h.execute_path hs hex hcfg hheld himm
  have hlive := Latch.hasInstruction_of_withoutValues hmoved
  rw [State.issuePc] at hissue
  rw [executeStage_frame hs hex]
  exact { h with
    before_execute := (Latch.complete_of_withoutValues hmoved).symm
    z := hz
    m_pc := fun hl => (Latch.pc_of_withoutValues hmoved).trans (h.e_pc (hlive.symm.trans hl))
    m_computed := hcomp
    e_pc := fun hl => absurd (hdead.symm.trans hl) nofun
    e_operands := fun _ hl => absurd hl (Latch.not_holds_of_dead hdead)
    issue_pc := by
      simp only [hdead]
      exact hissue
    fetch_pc := hfetch
    held_pc := hheld' }

/-- Under Counter a ready register has no writer in Memory or Writeback, so the registers already
hold what the sequential machine reads there (R123). -/
theorem Follows.ready_x (h : Follows c s a b d) (hk : s.scoreboard.kind = .counter)
    (hcounts : CountsWriters s) {r : Reg} (hr : s.scoreboard.ready r = true) :
    s.x[r] = d.x[r] := by
  have hnone : s.inFlight r = 0 := by
    rw [← (countsWriters_iff s).mp hcounts hk r]
    exact (Scoreboard.ready_iff_pending hk r).mp hr
  have hno : ¬s.HasWriter r := fun hw =>
    absurd ((s.inFlight_pos_iff r).mpr hw) (by omega)
  have hm : s.m.dest ≠ some r := fun hd => hno (.inr (.inl hd))
  have hw : s.w.dest ≠ some r := fun hd => hno (.inr (.inr hd))
  rw [h.before_execute, Latch.complete_x_other hm, h.before_memory, Latch.complete_x_other hw, h.x]

/-- Issuing hands the sequential machine's next instruction to Execute with its operands. -/
theorem Follows.issue (h : Follows c s a b d) (hi : s.d.holds i)
    (he : s.e.hasInstruction = false)
    (hx : ∀ r, i.src1 = some r ∨ i.src2 = some r → s.x[r] = d.x[r]) :
    Follows c (s.issue i) a b d := by
  have hop := hasOperands_of_issue s i hx
  have hissue := h.issue_pc
  rw [State.issuePc, hi.1, he] at hissue
  rw [State.issue_e] at hop
  rw [State.issue_frame]
  exact { h with
    e_pc := fun _ => by
      rw [State.issue_e]
      exact hissue
    e_operands := fun j hj => by
      rw [State.issue_e] at hj ⊢
      obtain rfl := Latch.holds_unique (l := (s.readSources i.src1 i.src2).d) hi hj
      exact hop
    issue_pc := by
      rw [State.issue_e]
      exact (h.fetch_pc hi.1).trans (if_pos hi.1).symm
    fetch_pc := nofun }

/-- Decode issues, where its sources are ready, or stalls. -/
theorem Follows.decode (h : Follows c s a b d) (hs : s.stage = .decode)
    (hdec : decodeStage s = .next t) (hrun : t.status = .running)
    (hk : s.scoreboard.kind = .counter) (hcounts : CountsWriters s)
    (he : s.e.hasInstruction = false) : Follows c t a b d := by
  rcases decodeStage_cases hs hdec with ⟨-, e⟩ | ⟨p, -, -, rfl⟩ | ⟨i, hi, -⟩
  · exact e ▸ h
  · cases hrun
  · by_cases hready : s.SourcesReady i.src1 i.src2
    · cases hdec.symm.trans (decodeStage_issues hs hi hready)
      obtain ⟨hr1, hr2⟩ := hready
      refine h.issue hi he fun r hr => h.ready_x hk hcounts ?_
      rcases hr with hr | hr
      · simpa [hr] using hr1
      · simpa [hr] using hr2
    · cases hdec.symm.trans (decodeStage_stalls hs hi hready)
      exact h.congr rfl

/-- Fetch forwards into an empty Decode latch the instruction at the PC, which is the next to
issue. -/
theorem Follows.forwarded (h : Follows c s a b d) (hd : s.d.hasInstruction = false)
    (ht : t = { s with
      pc := s.pc + 4, f := t.f, fHeld := false, d := t.d, dIsStalled := t.dIsStalled })
    (hlive : t.d.hasInstruction = true) (hpc : t.d.pc = s.pc) : Follows c t a b d := by
  have hissue := h.issue_pc
  rw [State.issuePc, hd] at hissue
  rw [ht]
  exact { h with
    issue_pc := by
      simp only [State.issuePc, hlive, if_true, hpc]
      exact hissue
    fetch_pc := fun _ => congrArg (· + 4) hpc.symm
    held_pc := nofun }

/-- Fetch keeps on the path of the sequential machine, whether it skips, holds, forwards or idles.
-/
theorem Follows.fetch (h : Follows c s a b d) (hs : s.stage = .fetch)
    (hfet : fetchStage s = .next t) (hc : ControlAfterDecode s) : Follows c t a b d := by
  have hdead (hf : s.fIsStalled = false) : s.d.hasInstruction = false :=
    hc.live_iff_stalled.trans (hc.stalls_agree.symm.trans hf)
  rcases fetchStage_cases hs hfet with ⟨-, rfl⟩ | ⟨-, -, -, rfl⟩ | ⟨-, hf, hf', rfl⟩ |
    ⟨-, -, hf', hh, rfl⟩ | ⟨-, -, -, e⟩
  · exact h.congr rfl
  · exact { h with
      held_pc := fun _ => s.loadedLatch_pc s.pc }
  · have hh : s.fHeld = false := Bool.eq_false_of_not_eq_true fun hh =>
      absurd ((hc.held hh).symm.trans hf) nofun
    have hlive := (s.loadedLatch_hasInstruction s.pc).trans hf
    refine h.forwarded (hdead hf') ?_ ?_ ?_
    · rw [← nextPc_eq, ← hh]
      split <;> rfl
    · split <;> exact hlive
    · split <;> exact s.loadedLatch_pc s.pc
  · refine h.forwarded (hdead hf') ?_ ?_ ?_
    · rw [← nextPc_eq]
      split <;> rfl
    · split <;> rfl
    · split <;> exact h.held_pc hh
  · exact e ▸ h

end Simulation

section SequentialRun

/-! ### The sequential run over the Instruction Store -/

variable {c s : State} {i : Instr} {a b : Arch}

/-- One more instruction of the sequential machine. -/
theorem seqRun_succ {n : Nat} {a0 : Arch} (h : seqRun c n a0 = .next a) :
    seqRun c (n + 1) a0 = seqStep c a := by
  induction n generalizing a0 with
  | zero =>
    cases h
    unfold seqRun
    cases seqStep c a <;> rfl
  | succ n ih =>
    rw [seqRun] at h ⊢
    cases hs : seqStep c a0 with
    | next a1 =>
      rw [hs] at h
      exact ih h
    | halted a1 => rw [hs] at h; cases h
    | stopped => rw [hs] at h; cases h

/-- A latch from the store holds the record that a fetch at its address finds. -/
theorem Latch.FromStore.fetch {l : Latch} (hl : l.FromStore s) (hi : l.holds i) :
    s.fetchRecord l.pc = .ok (l.recordOf i.opcode) := by
  have ho := Latch.opcode_of_holds hi
  unfold Latch.FromStore at hl
  split at hl
  · next r hr =>
    obtain ⟨hop, hrec⟩ := hl
    rw [ho, LatchOpcode.known.injEq] at hop
    rw [hr, hop, hrec]
  · rw [ho] at hl
    cases hl

/-- So the sequential machine at the latch's address runs the latch's instruction. -/
theorem seqStep_of_fromStore {l : Latch} (hcfg : s.cfg = c.cfg) (hst : s.istore = c.istore)
    (hl : l.FromStore s) (hi : l.holds i) (hpc : l.pc = a.pc) : seqStep c a = seqExec c i a := by
  have hfetch := hl.fetch hi
  rw [State.fetchRecord_congr hcfg hst, hpc] at hfetch
  rw [seqStep, hfetch]
  exact congrArg (seqExec c · a) (Latch.recordOf_instr_of_holds hi)

/-- Every CMP record of the store has `imm` 0 (R83). -/
def CmpImmZero (c : State) : Prop := ∀ r ∈ c.istore, r.opcode = .cmp → r.imm = 0

theorem CmpImmZero.latch {l : Latch} (h : CmpImmZero c) (hst : s.istore = c.istore)
    (hl : l.FromStore s) (hi : l.holds i) (ho : i.opcode = .cmp) : l.imm = 0 := by
  obtain ⟨k, hk, -⟩ := State.fetchRecord_ok (hl.fetch hi)
  rw [hst] at hk
  exact h _ (List.mem_of_getElem? hk) ho

end SequentialRun

section Refinement

/-! ### The simulation, stage by stage (R130) -/

variable {c s t : State}

/-- Under Counter, the running pipeline `s` follows the sequential machine from `c`, which has run
as many instructions as the pipeline has retired. -/
structure Simulates (c s : State) : Prop where
  cfg : s.cfg = c.cfg
  istore : s.istore = c.istore
  kind : s.scoreboard.kind = .counter
  counts : CountsWriters s
  store : LatchesFromStore s
  halts : NothingBehindHalt s
  follows : ∃ a b d, seqRun c s.insnCompleted c.arch = .next a ∧ Follows c s a b d

/-- The sequential machine from `c`, after as many instructions as `t` has retired, is at its HALT
with the registers, the flag and the data memory of `t`. -/
def HaltedAs (c t : State) : Prop :=
  ∃ a, seqRun c t.insnCompleted c.arch = .halted a ∧
    a.x = t.x ∧ a.z = t.z ∧ a.dmem = t.dmem ∧ t.pc = a.pc + 4

theorem Simulates.progress (h : Simulates c s) (stage : Stage) (clock : Nat) :
    Simulates c { s with stage := stage, clock := clock } := by
  obtain ⟨hcfg, hist, hk, hcounts, hstore, hhalt, a, b, d, hrun, hf⟩ := h
  exact ⟨hcfg, hist, hk, hcounts, hstore, hhalt, a, b, d, hrun, hf.congr rfl⟩

/-- Writeback retires what the sequential machine runs next. -/
theorem writebackStage_simulates (hs : s.stage = .writeback) (h : writebackStage s = .next t)
    (hsim : Simulates c s) (hw : ¬s.w.holdsHalt) : Simulates c t := by
  obtain ⟨hcfg, hist, hk, hcounts, hstore, hhalt, a, b, d, hrun, hf⟩ := hsim
  have hframe := writebackStage_frame hs h
  have hcount := writebackStage_insnCompleted hs h
  refine ⟨by rw [hframe]; exact hcfg, by rw [hframe]; exact hist, ?_,
    writebackStage_keeps_countsWriters hs h hcounts,
    writebackStage_keeps_latchesFromStore hs h hstore,
    writebackStage_keeps_nothingBehindHalt hs h hhalt, ?_⟩
  · rw [(writebackStage_writes hs h).2, Scoreboard.kind_elim s.scoreboard.restore_kind, hk]
  · rcases writebackStage_cases hs h with ⟨hdead, e⟩ | ⟨hh, -⟩ | ⟨i, hi, hne, -⟩
    · exact ⟨a, b, d, e ▸ hrun, e ▸ hf⟩
    · exact absurd hh hw
    · refine ⟨b, b, d, ?_, hf.writeback hs h hi⟩
      have hb : b = a.after c i := hf.before_memory.trans (Latch.complete_of_holds hi)
      have hstep := seqStep_of_fromStore hcfg hist (hstore.2.2.2.1 hi.1) hi (hf.w_pc hi.1)
      rw [hcount, hi.1, if_pos rfl, seqRun_succ hrun, hstep]
      rcases seqExec_cases c i a with ⟨rd, v, z, -, e⟩ | ⟨-, b', e, -⟩ | ⟨rfl, -⟩ | e
      · rw [e, hb, Arch.after_of_next e]
      · rw [e, hb, Arch.after_of_next e]
      · exact absurd rfl hne
      · exact absurd e (hf.w_result i hi).1

/-- A HALT in Writeback has nothing behind it, so all that the sequential machine has done at its
HALT the pipeline has done. -/
theorem writebackStage_halts (hs : s.stage = .writeback) (h : writebackStage s = .next t)
    (hsim : Simulates c s) (hw : s.w.holdsHalt) : HaltedAs c t := by
  obtain ⟨hcfg, hist, -, -, hstore, ⟨-, -, -, hhalt⟩, a, b, d, hrun, hf⟩ := hsim
  obtain ⟨-, hdd, hed, hmd⟩ := hhalt hw
  have ht : t = s.retire.haltCore := by
    rcases writebackStage_progress hs h with ⟨hn, -⟩ | ⟨-, e⟩
    · exact absurd hw hn
    · exact e
  have hb : b = { a with pc := a.pc + 4 } :=
    hf.before_memory.trans (Latch.complete_of_holds hw)
  have hd : d = b := hf.before_execute.trans (Latch.complete_of_dead hmd)
  have hissue := hf.issue_pc
  rw [State.issuePc, hdd, hed, hd, hb] at hissue
  have hstep := seqStep_of_fromStore hcfg hist (hstore.2.2.2.1 hw.1) hw (hf.w_pc hw.1)
  subst ht
  refine ⟨a, (seqRun_succ hrun).trans hstep, hf.x, ?_, ?_, hissue⟩
  · exact (congrArg Arch.z (hd.trans hb)).symm.trans hf.z
  · exact (congrArg Arch.dmem hb).symm.trans hf.dmem

theorem memoryStage_simulates (hs : s.stage = .memory) (h : memoryStage s = .next t)
    (hrunning : t.status = .running) (hw : s.w.hasInstruction = false) (hsim : Simulates c s) :
    Simulates c t := by
  obtain ⟨hcfg, hist, hk, hcounts, hstore, hhalt, a, b, d, hrun, hf⟩ := hsim
  have hframe := memoryStage_frame hs h
  exact ⟨by rw [hframe]; exact hcfg, by rw [hframe]; exact hist, by rw [hframe]; exact hk,
    memoryStage_keeps_countsWriters hs h hw hcounts, memoryStage_keeps_latchesFromStore hs h hstore,
    memoryStage_keeps_nothingBehindHalt hs h hhalt, a, d, d, by rw [hframe]; exact hrun,
    hf.memory hs h hrunning hcfg hw⟩

theorem executeStage_simulates (hcmp : CmpImmZero c) (hs : s.stage = .execute)
    (h : executeStage s = .next t) (hrunning : t.status = .running)
    (hm : s.m.hasInstruction = false) (hc : ControlBits s) (hsim : Simulates c s) :
    Simulates c t := by
  obtain ⟨hcfg, hist, hk, hcounts, hstore, hhalt, a, b, d, hrun, hf⟩ := hsim
  obtain ⟨-, -, -, -, hbits⟩ := hc
  have hframe := executeStage_frame hs h
  have himm (i : Instr) (hi : s.e.holds i) (ho : i.opcode = .cmp) : s.e.imm = 0 :=
    hcmp.latch hist (hstore.2.1 hi.1) hi ho
  exact ⟨by rw [hframe]; exact hcfg, by rw [hframe]; exact hist, by rw [hframe]; exact hk,
    executeStage_keeps_countsWriters hs h hm hcounts,
    executeStage_keeps_latchesFromStore hs h hstore,
    executeStage_keeps_nothingBehindHalt hs h hhalt, a, b, s.e.complete c d,
    by rw [hframe]; exact hrun,
    hf.execute hs h hrunning hcfg hm (fun he => (hbits he).2.2) himm⟩

theorem decodeStage_simulates (hs : s.stage = .decode) (h : decodeStage s = .next t)
    (hrunning : t.status = .running) (he : s.e.hasInstruction = false) (hsim : Simulates c s) :
    Simulates c t := by
  obtain ⟨hcfg, hist, hk, hcounts, hstore, hhalt, a, b, d, hrun, hf⟩ := hsim
  have hframe := decodeStage_frame hs h
  have hkind : t.scoreboard.kind = .counter := by
    rcases decodeStage_moves hs h with ⟨-, -, hb⟩ | ⟨-, -, hb⟩ <;> rw [hb]
    · rw [Scoreboard.kind_elim s.scoreboard.invalidate_kind, hk]
    · exact hk
  exact ⟨by rw [hframe]; exact hcfg, by rw [hframe]; exact hist, hkind,
    decodeStage_keeps_countsWriters hs h he hcounts,
    decodeStage_keeps_latchesFromStore hs h hstore,
    decodeStage_keeps_nothingBehindHalt hs h hhalt, a, b, d, by rw [hframe]; exact hrun,
    hf.decode hs h hrunning hk hcounts he⟩

theorem fetchStage_simulates (hs : s.stage = .fetch) (h : fetchStage s = .next t)
    (hc : ControlAfterDecode s) (hsim : Simulates c s) : Simulates c t := by
  obtain ⟨hcfg, hist, hk, hcounts, hstore, hhalt, a, b, d, hrun, hf⟩ := hsim
  have hframe := fetchStage_frame hs h
  exact ⟨by rw [hframe]; exact hcfg, by rw [hframe]; exact hist, by rw [hframe]; exact hk,
    fetchStage_keeps_countsWriters hs h hcounts, fetchStage_keeps_latchesFromStore hs h hstore,
    fetchStage_keeps_nothingBehindHalt hs h hc hhalt, a, b, d, by rw [hframe]; exact hrun,
    hf.fetch hs h hc⟩

/-- What a run keeps: while the core runs it follows the sequential machine, and it halts where that
machine does. -/
def Refines (c s : State) : Prop :=
  (s.status = .running → Simulates c s ∧ ControlBits s) ∧ (s.status = .halted → HaltedAs c s)

theorem refines_of_faulted {k : FaultKind} {info : Word} : Refines c (s.raiseFault k info) :=
  ⟨nofun, nofun⟩

theorem cycle_refines (hcmp : CmpImmZero c) (hrun : s.status = .running)
    (hsim : Simulates c s) (hc : ControlBits s) (h : cycle s = .next t) : Refines c t := by
  suffices hend : ∃ u, Refines c u ∧ t = { u with stage := .writeback } by
    obtain ⟨u, ⟨hu, hhalt⟩, rfl⟩ := hend
    exact ⟨fun hr => ⟨(hu hr).1.progress _ u.clock, (hu hr).2⟩, hhalt⟩
  refine cycle_rule
    (P0 := fun u => Simulates c u ∧ ControlBits u)
    (P1 := fun u => Simulates c u ∧ ControlBits u ∧ u.w.hasInstruction = false)
    (P2 := fun u => Simulates c u ∧ ControlBits u ∧ u.m.hasInstruction = false)
    (P3 := fun u => Simulates c u ∧ ControlAfterExecute u)
    (P4 := fun u => Simulates c u ∧ ControlAfterDecode u)
    (P5 := fun u => Simulates c u ∧ ControlBits u)
    (Q := Refines c) ?_ ?_ ?_ ?_ ?_ ?_ ⟨hsim.progress _ s.clock, hc⟩ hrun h
  · rintro u v ⟨hu, hb⟩ hur hs e
    by_cases hw : u.w.holdsHalt
    · have hst : v.status = .halted := by
        rcases writebackStage_progress hs e with ⟨hn, -⟩ | ⟨-, rfl⟩
        · exact absurd hw hn
        · rfl
      exact ⟨fun hv => absurd (hst.symm.trans hv) nofun, fun hv =>
        ⟨fun hr => absurd hr hv, fun _ => writebackStage_halts hs e hu hw⟩⟩
    · have hst : v.status = u.status := by
        rcases writebackStage_progress hs e with ⟨-, hst, -⟩ | ⟨hn, -⟩
        · exact hst
        · exact absurd hn hw
      exact ⟨fun _ => ⟨(writebackStage_simulates hs e hu hw).progress _ v.clock,
        writebackStage_keeps_controlBits (t := v) hs e hb, writebackStage_w_dead (t := v) hs e⟩,
        fun hv => absurd (hst.trans hur) hv⟩
  · rintro u v ⟨hu, hb, hw⟩ hur hs e
    refine ⟨fun hv => ⟨(memoryStage_simulates hs e hv hw hu).progress _ v.clock,
      memoryStage_keeps_controlBits (t := v) hs e hb, memoryStage_m_dead (t := v) hs e hv⟩,
      fun hv => ?_⟩
    rcases memoryStage_progress hs e with ⟨hst, -⟩ | rfl
    · exact absurd (hst.trans hur) hv
    · exact refines_of_faulted
  · rintro u v ⟨hu, hb, hm⟩ hur hs e
    refine ⟨fun hv => ⟨(executeStage_simulates hcmp hs e hv hm hb hu).progress _ v.clock,
      (executeStage_control hs e hb hv).withStage _⟩, fun hv => ?_⟩
    rcases executeStage_progress hs e with ⟨hst, -⟩ | ⟨k, -, rfl⟩
    · exact absurd (hst.trans hur) hv
    · exact refines_of_faulted
  · rintro u v ⟨hu, hb⟩ hur hs e
    refine ⟨fun hv => ⟨(decodeStage_simulates hs e hv hb.execute_dead hu).progress _ v.clock,
      (decodeStage_control hs e hb hv).withStage _⟩, fun hv => ?_⟩
    rcases decodeStage_progress hs e with ⟨hst, -⟩ | ⟨p, -, rfl⟩
    · exact absurd (hst.trans hur) hv
    · exact refines_of_faulted
  · rintro u v ⟨hu, hb⟩ hur hs e
    exact ⟨fun _ => ⟨fetchStage_simulates hs e hb hu, fetchStage_control hs e hb⟩,
      fun hv => absurd ((fetchStage_progress hs e).1.trans hur) hv⟩
  · rintro u ⟨hu, hb⟩ hur
    exact ⟨fun _ => ⟨hu.progress u.stage (u.clock + 1), hb⟩,
      fun hv => absurd (hur.symm.trans hv) nofun⟩

theorem step_refines (hcmp : CmpImmZero c) (hs : Refines c s) (h : step s = .next t) :
    Refines c t := by
  rcases step_cases h with ⟨-, rfl⟩ | ⟨-, -, rfl⟩ | ⟨⟨hrun, -⟩, hcycle⟩
  · exact hs
  · exact ⟨nofun, nofun⟩
  · obtain ⟨hsim, hc⟩ := hs.1 hrun
    exact cycle_refines hcmp hrun hsim hc hcycle

/-- A run of one more step goes on after the first. -/
theorem runSteps_succ {k : Nat} (h : runSteps (k + 1) s = .next t) :
    ∃ u, step s = .next u ∧ runSteps k u = .next t := by
  simp only [runSteps, Host.Core.run] at h
  split at h
  · next u hu => exact ⟨u, hu, h⟩
  · cases h
  · cases h

/-- What every step keeps holds after a run. -/
theorem runSteps_keeps {P : State → Prop} (hstep : ∀ s t, P s → step s = .next t → P t)
    {k : Nat} (hs : P s) (h : runSteps k s = .next t) : P t := by
  induction k generalizing s with
  | zero => cases h; exact hs
  | succ k ih =>
    obtain ⟨u, hu, hrest⟩ := runSteps_succ h
    exact ih (hstep s u hs hu) hrest

end Refinement

section Construction

/-! ### The constructed state and the sequential machine -/

/-- A constructed core holds the admitted records (R280). -/
theorem construct_ok {cfg : Config} {p : List RawRecord} {s : State}
    (h : construct cfg p = .ok s) :
    ∃ records, admitProgram p = .ok records ∧ s = State.init cfg records := by
  unfold construct at h
  split at h
  · cases h
  · split at h
    · cases h
    · next records hr =>
      split at h
      · cases h; exact ⟨records, hr, rfl⟩
      · cases h

/-- An admitted record holds 0 in the fields its format does not use (R81, R83). -/
theorem admitRecord_unusedZero {r : RawRecord} {a : Record} (h : admitRecord r = .ok a) :
    a.UnusedZero := by
  unfold admitRecord at h
  cases hd : decode r with
  | error e => rw [hd] at h; cases h
  | ok i =>
    rw [hd] at h
    cases h
    exact unusedZero_ofInstr i r.mnemonic

/-- An admitted CMP record has `imm` 0 (R83). -/
theorem cmpImmZero_init {cfg : Config} {p : List RawRecord} {records : List Record}
    (h : admitProgram p = .ok records) : CmpImmZero (State.init cfg records) := by
  intro a ha ho
  have hall := admitProgram_ok_iff.mp h
  have hzero : a.UnusedZero := by
    obtain ⟨k, hk, rfl⟩ := List.getElem_of_mem ha
    exact admitRecord_unusedZero (hall.get (hall.length_eq ▸ hk) hk)
  obtain ⟨-, -, -, himm⟩ := hzero
  exact himm (by rw [ho]; rfl)

/-- At construction no instruction is in flight and none has run. -/
theorem simulates_init {cfg : Config} (records : List Record)
    (hk : cfg.scoreboardKind = .counter) :
    Simulates (State.init cfg records) (State.init cfg records) := by
  obtain ⟨-, -, hhalt, hcounts, -, hkind, -, -, hstore⟩ :=
    constructedStateMeetsTheInvariants cfg records
  refine ⟨rfl, rfl, hkind.trans hk, hcounts, hstore, hhalt,
    (State.init cfg records).arch, (State.init cfg records).arch, (State.init cfg records).arch,
    rfl, ?_⟩
  exact {
    before_memory := rfl
    before_execute := rfl
    x := rfl
    dmem := rfl
    z := rfl
    w_pc := nofun
    w_result := fun _ h => nomatch h.1
    m_pc := nofun
    m_computed := fun _ h => nomatch h.1
    e_pc := nofun
    e_operands := fun _ h => nomatch h.1
    issue_pc := rfl
    fetch_pc := nofun
    held_pc := nofun }

end Construction

/-- Settles O51: construction starts a simulation of the sequential machine, every step keeps it,
and it ends where a HALT retires. -/
theorem pipelineEqualsSequentialMachine : Obligations.PipelineEqualsSequentialMachine := by
  intro cfg program s t k hk hs hrun hhalt
  obtain ⟨records, hrecords, rfl⟩ := construct_ok hs
  obtain ⟨hc, -⟩ := constructedStateMeetsTheInvariants cfg records
  have hstart : Refines (State.init cfg records) (State.init cfg records) :=
    ⟨fun _ => ⟨simulates_init records hk, hc⟩, nofun⟩
  exact (runSteps_keeps (fun _ _ => step_refines (cmpImmZero_init hrecords)) hstart hrun).2 hhalt

end Sys2Proof.Machine

/-!
PROOFS. The statements about the arithmetic, logic, move and compare instructions (41_alu.md). First
the stages they share with every instruction that does not access memory, Execute left open; then
the two kinds of result, and the Execute actions of DIV and CMP.
-/

namespace Sys2Proof.Machine

section SharedStages

/-! ### The stages other than Execute (R106, R112 to R114, R119 to R121) -/

variable {i : Instr}

/-- Only HALT does more at Fetch than being forwarded (R106, R107). -/
theorem forwardedByFetch (hi : i ≠ .halt) (s : State) : ForwardedByFetch i s := by
  intro hs
  rw [exec_fetch i s hs, if_neg hi, State.forward, nextPc_eq]

/-- Memory has no action of its own but for loads and stores (R119). -/
theorem passesMemory (hi : i.accessesMemory = false) (s : State) : PassesMemory i s := by
  intro hs
  rw [exec_memory i s hs]
  cases i with
  | load | store | ldr | str => cases hi
  | _ => rfl

/-- An instruction that neither halts nor accesses memory runs as the hazard-class table says in the
four stages around its Execute action. -/
theorem runs_around_execute {executes : Prop} {s : State} (hhalt : i ≠ .halt)
    (hmem : i.accessesMemory = false) (hexecute : s.stage = .execute → executes) :
    ForwardedByFetch i s ∧ IssuesOrStalls i i.src1 i.src2 i.dest s ∧
      (s.stage = .execute → executes) ∧ PassesMemory i s ∧ WritesBack i i.dest s :=
  ⟨forwardedByFetch hhalt s, issuesOrStalls i s, hexecute, passesMemory hmem s, writesBack hhalt s⟩

end SharedStages

section ExecuteActions

/-! ### The Execute actions (R116, R117) -/

variable {i : Instr} {s : State} {v : Word}

/-- A result whose Z is whether it is 0 (R117). -/
theorem runs_with_resultZ (hhalt : i ≠ .halt) (hmem : i.accessesMemory = false)
    (hexec : s.stage = .execute → exec i s = .next (s.executeResultZ v)) :
    ForwardedByFetch i s ∧ IssuesOrStalls i i.src1 i.src2 i.dest s ∧
      (s.stage = .execute → ExecutesToResult i v (decide (v = 0)) s) ∧
      PassesMemory i s ∧ WritesBack i i.dest s :=
  runs_around_execute hhalt hmem hexec

/-- A result that leaves Z alone (R168, R169). -/
theorem runs_with_result (hhalt : i ≠ .halt) (hmem : i.accessesMemory = false)
    (hexec : s.stage = .execute → exec i s = .next (s.executeResult v)) :
    ForwardedByFetch i s ∧ IssuesOrStalls i i.src1 i.src2 i.dest s ∧
      (s.stage = .execute → ExecutesToResult i v s.z s) ∧
      PassesMemory i s ∧ WritesBack i i.dest s :=
  runs_around_execute hhalt hmem hexec

/-- The one quotient that does not fit is that of -2^31 and -1 (R164). -/
theorem toInt_sdiv_of_fits {a b : Word} (h : ¬(a.toInt = -2 ^ 31 ∧ b.toInt = -1)) :
    (a.sdiv b).toInt = Int.tdiv a.toInt b.toInt := by
  apply BitVec.toInt_sdiv_of_ne_or_ne
  by_contra! hboth
  obtain ⟨rfl, rfl⟩ := hboth
  exact h (by decide)

variable {rd rs1 rs2 : Reg}

/-- DIV that cannot divide raises its fault from the address in the latch (R251, R252). -/
theorem div_raisesFault {k : FaultKind} (hs : s.stage = .execute)
    (h : divWord s.e.sourceValue1 s.e.sourceValue2 = .error k) :
    RaisesFault (.div rd rs1 rs2) k s.e.pc s := by
  rw [RaisesFault, exec_execute _ s hs]
  simp only [h, State.raiseFault]

/-- DIV that divides yields its quotient and sets Z by it (R164). -/
theorem div_executesToResult (hs : s.stage = .execute)
    (h : divWord s.e.sourceValue1 s.e.sourceValue2 = .ok v) :
    ExecutesToResult (.div rd rs1 rs2) v (decide (v = 0)) s := by
  rw [ExecutesToResult, exec_execute _ s hs]
  simp only [h]
  rfl

/-- CMP that does not branch leaves in Z whether its operands are equal (R171). -/
theorem cmp_executesToZ {z : Bool} (hs : s.stage = .execute)
    (hz : decide (s.e.sourceValue1 = s.e.sourceValue2) = z)
    (hpass : (s.cfg.cmpFallthrough && z) = false) : ExecutesToZ (.cmp rs1 rs2) z s := by
  subst hz
  rw [ExecutesToZ, exec_execute _ s hs]
  rcases s.executeCompare_cases with ⟨hbranch, -⟩ | ⟨-, e⟩
  · simp [hpass] at hbranch
  · exact congrArg _ e

/-- CMP of equal operands goes on as a taken branch under the fallthrough parameter (R172). -/
theorem cmp_executesTakenBranch (hs : s.stage = .execute)
    (heq : s.e.sourceValue1 = s.e.sourceValue2) (hcfg : s.cfg.cmpFallthrough = true) :
    ExecutesTakenBranch (.cmp rs1 rs2) (s.e.pc + s.e.imm) true s := by
  rw [ExecutesTakenBranch, exec_execute _ s hs]
  rcases s.executeCompare_cases with ⟨-, e⟩ | ⟨hpass, -⟩
  · rw [decide_eq_true heq] at e
    exact congrArg _ e
  · simp [hcfg, heq] at hpass

end ExecuteActions

/-- Settles O7: each is a two-source instruction with a destination whose Execute action is a result
that sets Z. -/
theorem addSubMulRunInEveryStage : Obligations.AddSubMulRunInEveryStage := by
  intro rd rs1 rs2 s p hp
  simp only [List.mem_cons, List.not_mem_nil, or_false] at hp
  rcases hp with rfl | rfl | rfl
  all_goals exact ⟨rfl, runs_with_resultZ nofun rfl (exec_execute _ s)⟩

/-- Settles O8, as O7: the results are bitwise. -/
theorem andOrXorRunInEveryStage : Obligations.AndOrXorRunInEveryStage := by
  intro rd rs1 rs2 s p hp
  simp only [List.mem_cons, List.not_mem_nil, or_false] at hp
  rcases hp with rfl | rfl | rfl
  all_goals exact ⟨rfl, runs_with_resultZ nofun rfl (exec_execute _ s)⟩

/-- Settles O9: the three cases of `divWord`; the signed quotient of the words is the truncated
quotient wherever that fits. -/
theorem divRunsOrFaults : Obligations.DivRunsOrFaults := by
  intro rd rs1 rs2 s i a b
  refine ⟨rfl, runs_around_execute nofun rfl fun hs => ⟨?_, ?_, ?_⟩⟩
  · intro hzero
    exact div_raisesFault hs ((divWord_zero_iff _ _).mpr hzero)
  · intro hmin hneg
    exact div_raisesFault hs ((divWord_overflow_iff _ _).mpr ⟨hmin, hneg⟩)
  · intro hzero hfits
    exact ⟨s.e.sourceValue1.sdiv s.e.sourceValue2, toInt_sdiv_of_fits hfits,
      div_executesToResult hs (divWord_ok_sdiv _ _ hzero hfits)⟩

/-- Settles O10: one source and a destination, and a result that leaves Z alone. -/
theorem addlSublRunInEveryStage : Obligations.AddlSublRunInEveryStage := by
  intro rd rs1 imm s p hp
  simp only [List.mem_cons, List.not_mem_nil, or_false] at hp
  rcases hp with rfl | rfl
  all_goals exact ⟨rfl, runs_with_result nofun rfl (exec_execute _ s)⟩

/-- Settles O11: no source, so every state issues; the result is the immediate. -/
theorem movcRunsInEveryStage : Obligations.MovcRunsInEveryStage :=
  fun _ _ s => ⟨rfl, runs_with_resultZ nofun rfl (exec_execute _ s)⟩

/-- Settles O12: CMP passes on with Z, and branches only for equal operands under the fallthrough
parameter. -/
theorem cmpRunsInEveryStage : Obligations.CmpRunsInEveryStage := by
  intro rs1 rs2 s i
  refine ⟨rfl, runs_around_execute nofun rfl fun hs => ⟨?_, ?_, cmp_executesTakenBranch hs⟩⟩
  · intro hne
    exact cmp_executesToZ hs (decide_eq_false hne) (Bool.and_false _)
  · intro heq hcfg
    exact cmp_executesToZ hs (decide_eq_true heq) (by rw [hcfg, Bool.false_and])

end Sys2Proof.Machine

/-!
PROOFS. The statements about the loads and stores (42_loadstore.md): the Memory action of a load, the
data address every such instruction computes in Execute, and the four stages around Memory.
-/

namespace Sys2Proof.Machine

section DataAccess

variable {i : Instr} {s : State}

/-- A load is what accesses memory without store data: its Memory stage reads the cell its address
names, or raises the fault (R119, R200, R202). -/
theorem loadsCell (hmem : i.accessesMemory = true) (hdata : i.storeData = none) (s : State) :
    LoadsCell i s := by
  intro hs
  have hexec : exec i s = .next s.memoryLoad := by
    rw [exec_memory i s hs]
    cases i with
    | load | ldr => rfl
    | store | str => cases hdata
    | _ => cases hmem
  constructor
  · intro k hk hlt
    rw [hexec, State.memoryLoad, State.cellIndex_of_lt hk hlt]
    rfl
  · intro hrange
    rw [RaisesFault, hexec, State.memoryLoad, (s.cellIndex_none_iff _).mpr hrange]
    rfl

/-- An instruction whose Execute action is a data address (R204) runs as the hazard-class table says
in the stages around Execute, its Memory stage left open. -/
theorem runs_with_address {a : Word} {accesses : Prop} (hhalt : i ≠ .halt) (hmemory : accesses)
    (hexec : s.stage = .execute → exec i s = .next (s.executeAddress a)) :
    ForwardedByFetch i s ∧ IssuesOrStalls i i.src1 i.src2 i.dest s ∧
      (s.stage = .execute → ExecutesToAddress i a s) ∧ accesses ∧ WritesBack i i.dest s :=
  ⟨forwardedByFetch hhalt s, issuesOrStalls i s, hexec, hmemory, writesBack hhalt s⟩

end DataAccess

/-- Settles O13: LOAD and LDR differ in their sources and their address alone. -/
theorem loadsRunInEveryStage : Obligations.LoadsRunInEveryStage := by
  intro rd rs1 rs2 imm s
  constructor
  · exact ⟨rfl, runs_with_address nofun (loadsCell rfl rfl s) (exec_execute _ s)⟩
  · exact ⟨rfl, runs_with_address nofun (loadsCell rfl rfl s) (exec_execute _ s)⟩

/-- Settles O14: STORE and STR differ in their sources and their address alone; the data register is
no source of Decode's, and Memory reads it. -/
theorem storesRunInEveryStage : Obligations.StoresRunInEveryStage := by
  intro rdata rs1 rs2 imm s
  constructor
  · exact ⟨rfl, runs_with_address nofun (storesCell rfl s) (exec_execute _ s)⟩
  · exact ⟨rfl, runs_with_address nofun (storesCell rfl s) (exec_execute _ s)⟩

end Sys2Proof.Machine

/-!
PROOFS. The statements about the branches and HALT (43_control.md): the Execute action of BZ and BNZ,
whose condition is read from Z, and the two stages in which HALT differs from every other
instruction, Fetch and Writeback.
-/

namespace Sys2Proof.Machine

section BranchAction

variable {i : Instr} {imm : Word} {taken : Bool} {s : State}

/-- The branch whose condition holds redirects to its own address plus the immediate (R118, R230). -/
theorem branch_executesTakenBranch
    (hexec : exec i s = .next (s.executeBranch taken imm)) (htaken : taken = true) :
    ExecutesTakenBranch i (s.e.pc + imm) s.z s := by
  rw [ExecutesTakenBranch, hexec]
  rcases s.executeBranch_cases taken imm with ⟨-, e⟩ | ⟨hpass, -⟩
  · exact congrArg _ e
  · cases htaken.symm.trans hpass

/-- The branch whose condition fails only moves on (R230). -/
theorem branch_executesToZ
    (hexec : exec i s = .next (s.executeBranch taken imm)) (hpass : taken = false) :
    ExecutesToZ i s.z s := by
  rw [ExecutesToZ, hexec]
  rcases s.executeBranch_cases taken imm with ⟨htaken, -⟩ | ⟨-, e⟩
  · cases htaken.symm.trans hpass
  · exact congrArg _ e

/-- An instruction whose Execute action is a branch runs as the hazard-class table says in the other
stages. -/
theorem runs_with_branch (hhalt : i ≠ .halt) (hmem : i.accessesMemory = false)
    (hexec : s.stage = .execute → exec i s = .next (s.executeBranch taken imm)) :
    ForwardedByFetch i s ∧ IssuesOrStalls i i.src1 i.src2 i.dest s ∧
      (s.stage = .execute →
        (taken = true → ExecutesTakenBranch i (s.e.pc + imm) s.z s) ∧
        (taken = false → ExecutesToZ i s.z s)) ∧
      PassesMemory i s ∧ WritesBack i i.dest s :=
  runs_around_execute hhalt hmem fun hs =>
    ⟨branch_executesTakenBranch (hexec hs), branch_executesToZ (hexec hs)⟩

end BranchAction

section Halt

variable {s : State}

/-- Forwarding HALT disables further fetching (R107). -/
theorem halt_fetch (hs : s.stage = .fetch) : exec .halt s = .next { s with
    d := s.f, dIsStalled := s.fIsStalled, pc := s.pc + 4
    f := { s.f with hasInstruction := false } } := by
  rw [exec_fetch _ s hs, if_pos rfl, State.forward, nextPc_eq]
  rfl

/-- Retiring HALT counts it and the cycle, and stops the core (R102, R121, R122). -/
theorem halt_writeback (hs : s.stage = .writeback) : exec .halt s = .next { s with
    insnCompleted := s.insnCompleted + 1
    w := { s.w with hasInstruction := false }
    status := .halted
    clock := s.clock + 1 } := by
  rw [exec_writeback _ s hs, if_pos rfl]
  rfl

end Halt

/-- Settles O15: BZ and BNZ have no source and no destination, and differ in the condition on Z of
their Execute action alone. -/
theorem branchesRunInEveryStage : Obligations.BranchesRunInEveryStage := by
  intro imm s p hp
  simp only [List.mem_cons, List.not_mem_nil, or_false] at hp
  rcases hp with rfl | rfl
  all_goals exact ⟨rfl, runs_with_branch nofun rfl (exec_execute _ s)⟩

/-- Settles O16: HALT decodes and passes Memory like any instruction without operands; its effects
are those of its Fetch and Writeback. -/
theorem haltRunsInEveryStage : Obligations.HaltRunsInEveryStage :=
  fun s => ⟨rfl, halt_fetch, issuesOrStalls .halt s, exec_execute .halt s, passesMemory rfl s,
    halt_writeback⟩

end Sys2Proof.Machine

/-!
PROOFS. The statements about the faults (60_exceptions.md). First the state a step leaves when a
stage stops the core, and the faults as the stages raise them; then, backwards, what a stage that
stopped the core had found. The counters of R261 come last.
-/

namespace Sys2Proof.Machine

section Stops

/-! ### A cycle that a stage ends (R250 (3))

The stages after the one that stops the core are not evaluated. -/

variable {s s1 s2 s3 s4 : State} (hev : EvaluatesCycle s)
  (h1 : writebackStage { s with stage := .writeback } = .next s1) (r1 : s1.status = .running)
  (h2 : memoryStage { s1 with stage := .memory } = .next s2)
include hev h1 r1 h2

theorem step_of_memory_stops (n2 : s2.status ≠ .running) :
    step s = .next { s2 with stage := .writeback } := by
  rw [step_of_evaluates hev, cycle, h1, thenStage_running _ _ r1, h2, thenStage_stopped _ _ n2,
    thenStage_stopped _ _ n2, thenStage_stopped _ _ n2, closeCycle_stopped n2]

variable (r2 : s2.status = .running)
  (h3 : executeStage { s2 with stage := .execute } = .next s3)
include r2 h3

theorem step_of_execute_stops (n3 : s3.status ≠ .running) :
    step s = .next { s3 with stage := .writeback } := by
  rw [step_of_evaluates hev, cycle, h1, thenStage_running _ _ r1, h2, thenStage_running _ _ r2, h3,
    thenStage_stopped _ _ n3, thenStage_stopped _ _ n3, closeCycle_stopped n3]

variable (r3 : s3.status = .running)
  (h4 : decodeStage { s3 with stage := .decode } = .next s4)
include r3 h4

theorem step_of_decode_stops (n4 : s4.status ≠ .running) :
    step s = .next { s4 with stage := .writeback } := by
  rw [step_of_evaluates hev, cycle, h1, thenStage_running _ _ r1, h2, thenStage_running _ _ r2, h3,
    thenStage_running _ _ r3, h4, thenStage_stopped _ _ n4, closeCycle_stopped n4]

end Stops

section Raises

/-! ### The stages that raise a fault (R251 to R254) -/

variable {s t : State} {i : Instr}

/-- Every load and store raises the fault of an address out of range (R254). -/
theorem memoryStage_raisesFault (hs : s.stage = .memory) (hi : s.m.holds i)
    (hmem : i.accessesMemory = true) (hcell : s.cellIndex s.m.memoryAddress = none) :
    memoryStage s = .next (s.raiseFault .dataAddressOutOfRange s.m.memoryAddress) := by
  have hrange := (s.cellIndex_none_iff _).mp hcell
  rw [memoryStage_of_holds hi]
  cases hdata : i.storeData with
  | none => exact (loadsCell hmem hdata s hs).2 hrange
  | some r => exact (storesCell hdata s hs).2 hrange

/-- Memory without an access copies its latch on, whether it is live or not (R119). -/
theorem memoryStage_passes (hs : s.stage = .memory)
    (hm : s.m.hasInstruction = false ∨ (s.m.holds i ∧ i.accessesMemory = false)) :
    memoryStage s = .next s.passMemory := by
  rcases hm with hdead | ⟨hi, hmem⟩
  · simp [memoryStage, hdead]
  · rw [memoryStage_of_holds hi]
    exact passesMemory hmem s hs

/-- Execute of a DIV that cannot divide raises its fault (R251, R252). -/
theorem executeStage_raisesFault {rd rs1 rs2 : Reg} {k : FaultKind} (hs : s.stage = .execute)
    (hi : s.e.holds (.div rd rs1 rs2))
    (hdiv : divWord s.e.sourceValue1 s.e.sourceValue2 = .error k) :
    executeStage s = .next (s.raiseFault k s.e.pc) :=
  (executeStage_of_holds hi).trans (div_raisesFault hs hdiv)

/-- Decode of a live poisoned latch raises the fault of its poison (R111, R253). -/
theorem decodeStage_raisesFault {p : Poison} (hd : s.d.hasInstruction = true)
    (hp : s.d.opcode = .invalid p) :
    decodeStage s = .next (s.raiseFault p.faultKind s.d.pc) := by
  simp only [decodeStage, hd, hp, if_true]

/-- Writeback stops the core on a HALT alone (R102). -/
theorem writebackStage_running (hs : s.stage = .writeback) (h : writebackStage s = .next t)
    (hrun : s.status = .running) (hhalt : ¬s.w.holdsHalt) : t.status = .running := by
  rcases writebackStage_progress hs h with ⟨-, hst, -⟩ | ⟨hh, -⟩
  · exact hst.trans hrun
  · exact absurd hh hhalt

theorem clock_after_writeback (h : writebackStage { s with stage := .writeback } = .next t)
    (hrun : t.status = .running) : t.clock = s.clock := by
  rcases writebackStage_progress rfl h with ⟨-, -, hcl⟩ | ⟨-, rfl⟩
  · exact hcl
  · cases hrun

/-- Writeback leaves alone which cell the Memory latch's address names. -/
theorem cellIndex_after_writeback
    (h : writebackStage { s with stage := .writeback } = .next t) :
    t.cellIndex t.m.memoryAddress = s.cellIndex s.m.memoryAddress := by
  rw [writebackStage_frame rfl h]
  rfl

end Raises

/-- Settles O32: the raising stage only writes status and clock, the clock is still the one before
the cycle, and no later stage is evaluated. -/
theorem faultEndsTheCycleWhereRaised : Obligations.FaultEndsTheCycleWhereRaised := by
  intro s s1 hev h1 r1
  refine ⟨fun i hi hmem hcell => ?_, fun s2 h2 r2 =>
    ⟨fun rd rs1 rs2 k hi hdiv => ?_, fun s3 p h3 r3 hd hp => ?_⟩⟩
  · have h2 := memoryStage_raisesFault (s := { s1 with stage := .memory }) rfl hi hmem hcell
    have hclock : s1.clock = s.clock := clock_after_writeback h1 r1
    rw [step_of_memory_stops hev h1 r1 h2 nofun, ← hclock]
    rfl
  · have h3 := executeStage_raisesFault (s := { s2 with stage := .execute }) rfl hi hdiv
    have hclock : s2.clock = s.clock := clock_after_memory h1 r1 h2 r2
    rw [step_of_execute_stops hev h1 r1 h2 r2 h3 nofun, ← hclock]
    rfl
  · have h4 := decodeStage_raisesFault (s := { s3 with stage := .decode }) hd hp
    have hclock : s3.clock = s.clock :=
      (executeStage_clock h3 r3).trans (clock_after_memory h1 r1 h2 r2)
    rw [step_of_decode_stops hev h1 r1 h2 r2 h3 r3 h4 nofun, ← hclock]
    rfl

section Causes

/-! ### What a stage that stopped the core had found -/

variable {s t : State}

theorem memoryStage_stops (hs : s.stage = .memory) (h : memoryStage s = .next t)
    (hrun : s.status = .running) (hstop : t.status ≠ .running) :
    (∃ i, s.m.holds i ∧ i.accessesMemory = true) ∧ s.cellIndex s.m.memoryAddress = none ∧
      t = s.raiseFault .dataAddressOutOfRange s.m.memoryAddress := by
  rcases memoryStage_cases hs h with ⟨-, rfl⟩ | ⟨i, hi, ⟨-, rfl⟩ | ⟨k, -, -, -, rfl⟩ |
    ⟨k, r, -, -, rfl⟩ | ⟨hmem, hcell, rfl⟩⟩
  case inr.inr.inr.inr => exact ⟨⟨i, hi, hmem⟩, hcell, rfl⟩
  all_goals exact absurd hrun hstop

theorem executeStage_stops (hs : s.stage = .execute) (h : executeStage s = .next t)
    (hrun : s.status = .running) (hstop : t.status ≠ .running) :
    ∃ k, (∃ rd rs1 rs2, s.e.holds (.div rd rs1 rs2)) ∧
      divWord s.e.sourceValue1 s.e.sourceValue2 = .error k ∧ t = s.raiseFault k s.e.pc := by
  rcases executeStage_cases hs h with ⟨-, rfl⟩ | ⟨i, hi, ⟨v, a, z, -, rfl⟩ | ⟨target, z, -, rfl⟩ |
    ⟨k, ⟨rd, rs1, rs2, rfl⟩, hk, rfl⟩⟩
  case inr.inr.inr => exact ⟨k, ⟨rd, rs1, rs2, hi⟩, hk, rfl⟩
  all_goals exact absurd hrun hstop

theorem decodeStage_stops (hs : s.stage = .decode) (h : decodeStage s = .next t)
    (hrun : s.status = .running) (hstop : t.status ≠ .running) :
    ∃ p, s.d.hasInstruction = true ∧ s.d.opcode = .invalid p ∧
      t = s.raiseFault p.faultKind s.d.pc := by
  rcases decodeStage_cases hs h with ⟨-, rfl⟩ | ⟨p, hd, hp, rfl⟩ | ⟨i, -, rfl⟩
  · exact absurd hrun hstop
  · exact ⟨p, hd, hp, rfl⟩
  · rcases s.decodeWith_cases i.src1 i.src2 i.dest with ⟨-, e⟩ | ⟨-, e⟩ <;> rw [e] at hstop
    · exact absurd (by simpa using hrun) hstop
    · exact absurd hrun hstop

/-- Why a step from `s` ended in `t` with the fault `k` and its `info`, by the stage that raised it,
over the latch that stage's instruction was in before the cycle. -/
inductive FaultCause (s t : State) : FaultKind → Word → Prop where
  /-- A load or store whose address names no cell (R254). -/
  | memory (hi : ∃ i, s.m.holds i ∧ i.accessesMemory = true)
      (hcell : s.cellIndex s.m.memoryAddress = none) (hlatch : t.m = s.m) :
      FaultCause s t .dataAddressOutOfRange s.m.memoryAddress
  /-- A DIV that cannot divide (R251, R252). -/
  | execute {k : FaultKind} (hi : ∃ rd rs1 rs2, s.e.holds (.div rd rs1 rs2))
      (hdiv : divWord s.e.sourceValue1 s.e.sourceValue2 = .error k) (hlatch : t.e = s.e) :
      FaultCause s t k s.e.pc
  /-- A fetch that found no instruction (R253). -/
  | decode (p : Poison) (hlive : s.d.hasInstruction = true) (hp : s.d.opcode = .invalid p)
      (hlatch : t.d = s.d) : FaultCause s t p.faultKind s.d.pc

/-- A step ends in a fault only by one of the three stages that raise one; the stages before it have
left its latch alone. -/
theorem faultCause_of_step {k : FaultKind} {info : Word} (hrun : s.status = .running)
    (h : step s = .next t) (hf : t.status = .faulted k info) : FaultCause s t k info := by
  rcases step_cases h with ⟨hn, -⟩ | ⟨-, -, rfl⟩ | ⟨hev, hc⟩
  · exact absurd hrun hn
  · cases hf
  rcases cycleCourse_of_cycle hc with ⟨s1, h1, n1, ht⟩ | ⟨s1, s2, h1, r1, h2, n2, -⟩ |
    ⟨s1, s2, s3, h1, r1, h2, r2, h3, n3, -⟩ |
    ⟨s1, s2, s3, s4, h1, r1, h2, r2, h3, r3, h4, n4, -⟩ | ⟨-, -, -, -, -, -, -, -, -, -, -, -, ht⟩
  case writeback =>
    rcases writebackStage_progress rfl h1 with ⟨-, hst, -⟩ | ⟨-, rfl⟩
    · exact absurd (hst.trans hrun) n1
    · cases ht.symm.trans hf
  case memory =>
    obtain ⟨hi, hcell, rfl⟩ := memoryStage_stops rfl h2 r1 n2
    cases (step_of_memory_stops hev h1 r1 h2 n2).symm.trans h
    cases hf
    have hm : s1.m = s.m := m_after_writeback h1
    change FaultCause s _ _ s1.m.memoryAddress
    rw [hm]
    exact .memory (hm ▸ hi) ((cellIndex_after_writeback h1).symm.trans hcell) rfl
  case execute =>
    obtain ⟨k, hi, hdiv, rfl⟩ := executeStage_stops rfl h3 r2 n3
    cases (step_of_execute_stops hev h1 r1 h2 r2 h3 n3).symm.trans h
    cases hf
    obtain ⟨he, -⟩ := latches_after_memory h1 h2
    change FaultCause s _ _ s2.e.pc
    rw [he]
    exact .execute (he ▸ hi) (he ▸ hdiv) rfl
  case decode =>
    obtain ⟨p, hlive, hp, rfl⟩ := decodeStage_stops rfl h4 r3 n4
    cases (step_of_decode_stops hev h1 r1 h2 r2 h3 r3 h4 n4).symm.trans h
    cases hf
    obtain ⟨-, hd, -⟩ := latches_after_memory h1 h2
    rcases executeStage_d_f rfl h3 with ⟨hsame, -⟩ | ⟨hflush, -⟩
    · have hd3 : s3.d = s.d := hsame.trans hd
      change FaultCause s _ _ s3.d.pc
      rw [hd3]
      exact .decode p (hd3 ▸ hlive) (hd3 ▸ hp) rfl
    · exact absurd (hflush.symm.trans hlive) nofun
  case whole => cases ht.symm.trans hf

end Causes

/-- Settles O33: each cause names its stage, and DIV's two faults are told apart by the operands. -/
theorem faultsHaveTheirCauses : Obligations.FaultsHaveTheirCauses := by
  intro s t k info hrun h hf
  rcases faultCause_of_step hrun h hf with ⟨hi, hcell, hlatch⟩ |
    ⟨⟨rd, rs1, rs2, hi⟩, hdiv, hlatch⟩ | ⟨p, hlive, hp, hlatch⟩
  case memory => exact ⟨rfl, rfl, hlatch, hi, (s.cellIndex_none_iff _).mp hcell⟩
  case execute =>
    rcases divWord_error hdiv with rfl | rfl
    · have hzero := (divWord_zero_iff _ _).mp hdiv
      exact ⟨rfl, rfl, hlatch, rd, rs1, rs2, hi, BitVec.toInt_inj.mp hzero⟩
    · obtain ⟨hmin, hneg⟩ := (divWord_overflow_iff _ _).mp hdiv
      exact ⟨rfl, rfl, hlatch, rd, rs1, rs2, hi, hmin, hneg⟩
  case decode => cases p <;> exact ⟨rfl, rfl, hlatch, hlive, hp⟩

/-- Settles O34: the older fault is raised first, and O32 says what the step is then. -/
theorem theOldestFaultIsReported : Obligations.TheOldestFaultIsReported := by
  intro s t i rd rs1 rs2 k p hev hhalt h
  obtain ⟨s1, h1⟩ : ∃ s1, writebackStage { s with stage := .writeback } = .next s1 := by
    rcases cycleCourse_of_cycle ((step_of_evaluates hev).symm.trans h) <;> exact ⟨_, ‹_›⟩
  have r1 : s1.status = .running := writebackStage_running rfl h1 hev.1 hhalt
  have hm := m_after_writeback h1
  obtain ⟨hmemory, hlater⟩ := faultEndsTheCycleWhereRaised s s1 hev h1 r1
  constructor
  · intro hi hmem hcell
    rw [← hm] at hi ⊢
    rw [← cellIndex_after_writeback h1] at hcell
    cases (hmemory i hi hmem hcell).symm.trans h
    rfl
  · intro hpass hi hdiv _ _
    rw [← hm] at hpass
    have h2 := memoryStage_passes (s := { s1 with stage := .memory }) rfl hpass
    obtain ⟨he, -⟩ := latches_after_memory h1 h2
    rw [← he] at hi hdiv ⊢
    cases ((hlater _ h2 r1).1 rd rs1 rs2 k hi hdiv).symm.trans h
    rfl

section Counters

/-! ### The counters (R261) -/

variable {s t : State}

/-- Issue and retirement leave the scoreboard of its kind, and no other stage touches it (R39). -/
theorem step_keeps_kindAsConfigured (hk : KindAsConfigured s) (h : step s = .next t) :
    KindAsConfigured t := by
  refine step_keeps (Q := KindAsConfigured) (fun _ _ _ _ h => h) ?_ ?_ ?_ ?_ ?_ hk h
  · intro u v hu hs e
    have hb := (writebackStage_writes hs e).2
    have hcfg : v.cfg = u.cfg := by rw [writebackStage_frame hs e]
    rw [KindAsConfigured, hb, Scoreboard.kind_elim u.scoreboard.restore_kind, hcfg]
    exact hu
  · exact fun u v hu hs e => by rw [memoryStage_frame hs e]; exact hu
  · exact fun u v hu hs e => by rw [executeStage_frame hs e]; exact hu
  · intro u v hu hs e
    have hcfg : v.cfg = u.cfg := by rw [decodeStage_frame hs e]
    rw [KindAsConfigured, hcfg]
    rcases decodeStage_moves hs e with ⟨-, -, hb⟩ | ⟨-, -, hb⟩ <;> rw [hb]
    · exact (Scoreboard.kind_elim u.scoreboard.invalidate_kind _).trans hu
    · exact hu
  · exact fun u v hu hs e => by rw [fetchStage_frame hs e]; exact hu

/-- A cycle counts itself and at most one retirement, and below the budget one cycle is left. -/
theorem step_keeps_countersBounded (hb : CountersBounded s) (h : step s = .next t) :
    CountersBounded t := by
  have hcfg : t.cfg = s.cfg := (storeAndConfigurationNeverChange s t h).2
  rcases step_cases h with ⟨-, rfl⟩ | ⟨-, -, rfl⟩ | ⟨hev, -⟩
  · exact hb
  · exact hb
  · obtain ⟨hclock, hinsn⟩ := cyclesAndRetirementsAreCounted s t hev h
    obtain ⟨hle, hmax⟩ := hb
    have hleft : s.clock ≠ s.cfg.maxCycles := hev.2
    rw [CountersBounded, hclock, hinsn, hcfg]
    constructor
    · split <;> omega
    · omega

end Counters

/-- Settles O45: the counters are compared over the whole step, the kind is kept stage by stage. -/
theorem stepKeepsCountersAndKind : Obligations.StepKeepsCountersAndKind :=
  fun _ _ hb hk h => ⟨step_keeps_countersBounded hb h, step_keeps_kindAsConfigured hk h⟩

end Sys2Proof.Machine

/-!
PROOFS. The statements about reset and hazards (70_reset_and_hazards.md). First the five stages of a
cycle that leaves the core running, and what it does to the latches; then the first cycle, halting,
stalls, the end of a run and its count of cycles.
-/

namespace Sys2Proof.Machine

section WholeCycle

/-! ### The stages of a cycle that leaves the core running -/

/-- The cycle from `s` to `t` ran its five stages, with `s1` to `s5` the states they left. -/
structure WholeCycle (s s1 s2 s3 s4 s5 t : State) : Prop where
  writeback : writebackStage { s with stage := .writeback } = .next s1
  writeback_running : s1.status = .running
  memory : memoryStage { s1 with stage := .memory } = .next s2
  memory_running : s2.status = .running
  execute : executeStage { s2 with stage := .execute } = .next s3
  execute_running : s3.status = .running
  decode : decodeStage { s3 with stage := .decode } = .next s4
  decode_running : s4.status = .running
  fetch : fetchStage { s4 with stage := .fetch } = .next s5
  closed : t = { s5.tick with stage := .writeback }

/-- A core that a step halts was within its budget. -/
theorem evaluatesCycle_of_step_halted {s t : State} (hrun : s.status = .running)
    (h : step s = .next t) (ht : t.status = .halted) : EvaluatesCycle s := by
  rcases step_cases h with ⟨hn, -⟩ | ⟨-, -, rfl⟩ | ⟨hev, -⟩
  · exact absurd hrun hn
  · cases ht
  · exact hev

/-- A final state stays as it is, so a step that leaves the core running found it running. -/
theorem evaluatesCycle_of_step_running {s t : State} (h : step s = .next t)
    (ht : t.status = .running) : EvaluatesCycle s := by
  rcases step_cases h with ⟨hn, rfl⟩ | ⟨-, -, rfl⟩ | ⟨hev, -⟩
  · exact absurd ht hn
  · cases ht
  · exact hev

/-- A stage that was skipped would have left the core stopped. -/
theorem wholeCycle_of_step {s t : State} (h : step s = .next t) (ht : t.status = .running) :
    ∃ s1 s2 s3 s4 s5, WholeCycle s s1 s2 s3 s4 s5 t := by
  rw [step_of_evaluates (evaluatesCycle_of_step_running h ht)] at h
  obtain ⟨s5, h5, ⟨r5, hclose⟩ | ⟨n5, rfl⟩⟩ := closeCycle_cases h
  case inr => exact absurd ht n5
  obtain ⟨s4, h4, ⟨r4, e5⟩ | ⟨n4, rfl⟩⟩ := thenStage_cases h5
  case inr => exact absurd r5 n4
  obtain ⟨s3, h3, ⟨r3, e4⟩ | ⟨n3, rfl⟩⟩ := thenStage_cases h4
  case inr => exact absurd r4 n3
  obtain ⟨s2, h2, ⟨r2, e3⟩ | ⟨n2, rfl⟩⟩ := thenStage_cases h3
  case inr => exact absurd r3 n2
  obtain ⟨s1, h1, ⟨r1, e2⟩ | ⟨n1, rfl⟩⟩ := thenStage_cases h2
  case inr => exact absurd r2 n1
  exact ⟨s1, s2, s3, s4, s5, h1, r1, e2, r2, e3, r3, e4, r4, e5, hclose⟩

variable {s s1 s2 s3 s4 s5 t : State}

/-- Memory's latch has moved on to Writeback. -/
theorem WholeCycle.w_moved (c : WholeCycle s s1 s2 s3 s4 s5 t) :
    t.w.withoutValues = s.m.withoutValues := by
  obtain ⟨hmoved, -⟩ := memoryStage_moves_of_running rfl c.memory c.memory_running
  have w3 : s3.w = s2.w := by rw [executeStage_frame rfl c.execute]
  have w4 : s4.w = s3.w := by rw [decodeStage_frame rfl c.decode]
  have w5 : s5.w = s4.w := by rw [fetchStage_frame rfl c.fetch]
  rw [← m_after_writeback c.writeback, c.closed]
  exact (congrArg Latch.withoutValues (w5.trans (w4.trans w3))).trans hmoved

/-- Execute's latch has moved on to Memory. -/
theorem WholeCycle.m_moved (c : WholeCycle s s1 s2 s3 s4 s5 t) :
    t.m.withoutValues = s.e.withoutValues := by
  obtain ⟨hmoved, -⟩ := executeStage_moves_of_running rfl c.execute c.execute_running
  obtain ⟨he, -⟩ := latches_after_memory c.writeback c.memory
  have m4 : s4.m = s3.m := by rw [decodeStage_frame rfl c.decode]
  have m5 : s5.m = s4.m := by rw [fetchStage_frame rfl c.fetch]
  rw [← he, c.closed]
  exact (congrArg Latch.withoutValues (m5.trans m4)).trans hmoved

/-- The Execute latch is as Decode left it. -/
theorem WholeCycle.e_eq (c : WholeCycle s s1 s2 s3 s4 s5 t) : t.e = s4.e := by
  rw [c.closed, fetchStage_frame rfl c.fetch]
  rfl

theorem WholeCycle.scoreboard_eq (c : WholeCycle s s1 s2 s3 s4 s5 t) :
    t.scoreboard = s4.scoreboard := by
  rw [c.closed, fetchStage_frame rfl c.fetch]
  rfl

theorem WholeCycle.controlBits_after_memory (c : WholeCycle s s1 s2 s3 s4 s5 t)
    (hc : ControlBits s) : ControlBits s2 := by
  have h1 : ControlBits s1 := writebackStage_keeps_controlBits rfl c.writeback hc
  exact memoryStage_keeps_controlBits rfl c.memory h1

theorem WholeCycle.control_after_execute (c : WholeCycle s s1 s2 s3 s4 s5 t)
    (hc : ControlBits s) : ControlAfterExecute s3 :=
  executeStage_control rfl c.execute (c.controlBits_after_memory hc) c.execute_running

theorem WholeCycle.control_after_decode (c : WholeCycle s s1 s2 s3 s4 s5 t)
    (hc : ControlBits s) : ControlAfterDecode s4 :=
  decodeStage_control rfl c.decode ((c.control_after_execute hc).withStage _) c.decode_running

/-- Fetch leaves Decode's stall flag, which agrees with its own. -/
theorem fetchStage_keeps_dIsStalled (hs : s.stage = .fetch) (h : fetchStage s = .next t)
    (hst : s.fIsStalled = s.dIsStalled) : t.dIsStalled = s.dIsStalled := by
  rcases fetchStage_cases hs h with ⟨-, rfl⟩ | ⟨-, -, -, rfl⟩ | ⟨-, -, -, rfl⟩ |
    ⟨-, -, -, -, rfl⟩ | ⟨-, -, -, rfl⟩
  · rfl
  · rfl
  · split <;> exact hst
  · split <;> exact hst
  · rfl

theorem WholeCycle.dIsStalled_eq (c : WholeCycle s s1 s2 s3 s4 s5 t) (hc : ControlBits s) :
    t.dIsStalled = s4.dIsStalled := by
  have h5 := fetchStage_keeps_dIsStalled rfl c.fetch (c.control_after_decode hc).stalls_agree
  rw [c.closed]
  exact h5

end WholeCycle

section FirstCycle

/-! ### The first cycle (R280) -/

/-- Forwarding, whether or not it disables fetching, hands Decode the Fetch latch and moves the PC
on; all but the Fetch latch and Decode's stall flag is left alone. -/
theorem forwardStage_forwards {s : State} (hs : s.stage = .fetch) :
    ∃ u, forwardStage s = .next u ∧ u = { s with
      f := u.f, d := s.f, dIsStalled := s.fIsStalled, pc := s.pc + 4 } := by
  refine ⟨_, forwardStage_eq hs, ?_⟩
  rw [← nextPc_eq]
  split <;> rfl

end FirstCycle

/-- Settles O23: the other stages find empty latches, and Fetch loads record 0 and forwards it. -/
theorem firstCycleFetchesInstructionZero : Obligations.FirstCycleFetchesInstructionZero := by
  intro cfg program r hr hbudget
  let s4 : State := { State.init cfg program with
    w := Latch.zero.clear, m := Latch.zero.clear, e := Latch.zero.clear, stage := .fetch }
  have hrecord : s4.fetchRecord cfg.baseAddr = .ok r := State.fetchRecord_of_index 0 hr rfl
  obtain ⟨u, hu, hframe⟩ := forwardStage_forwards (s := s4.loadAtPc) rfl
  have hfetch : fetchStage s4 = .next u := (fetchStage_of_live rfl rfl rfl).trans hu
  have hstep := step_of_stages (s := State.init cfg program) ⟨rfl, hbudget.symm⟩ rfl rfl rfl rfl
    rfl rfl rfl rfl hfetch (by rw [hframe]; rfl)
  rw [hframe] at hstep
  exact ⟨_, hstep, rfl, ⟨s4.loadedLatch_hasInstruction _, State.loadedLatch_instr_ok hrecord⟩,
    s4.loadedLatch_pc _, rfl, rfl, rfl, rfl, rfl, rfl, rfl, rfl, rfl⟩

section Halting

/-! ### Halting (R289) -/

variable {s t : State}

/-- Only the HALT that Writeback retires halts the core. -/
theorem holdsHalt_of_step_halted (hrun : s.status = .running) (h : step s = .next t)
    (ht : t.status = .halted) : s.w.holdsHalt := by
  have hev := evaluatesCycle_of_step_halted hrun h ht
  rw [step_of_evaluates hev] at h
  rcases cycleCourse_of_cycle h with ⟨s1, h1, n1, -⟩ | ⟨s1, s2, -, r1, h2, n2, hst⟩ |
    ⟨s1, s2, s3, -, -, -, r2, h3, n3, hst⟩ |
    ⟨s1, s2, s3, s4, -, -, -, -, -, r3, h4, n4, hst⟩ | ⟨-, -, -, -, -, -, -, -, -, -, -, -, hst⟩
  case writeback =>
    rcases writebackStage_progress rfl h1 with ⟨-, hst, -⟩ | ⟨hw, -⟩
    · exact absurd (hst.trans hrun) n1
    · exact hw
  case memory =>
    obtain ⟨-, -, rfl⟩ := memoryStage_stops rfl h2 r1 n2
    cases hst.symm.trans ht
  case execute =>
    obtain ⟨k, -, -, rfl⟩ := executeStage_stops rfl h3 r2 n3
    cases hst.symm.trans ht
  case decode =>
    obtain ⟨p, -, -, rfl⟩ := decodeStage_stops rfl h4 r3 n4
    cases hst.symm.trans ht
  case whole => cases hst.symm.trans ht

/-- The state a halting step leaves (R102, R122). -/
theorem step_halted_eq (hrun : s.status = .running) (h : step s = .next t)
    (ht : t.status = .halted) : s.w.holdsHalt ∧ t = { s with
      insnCompleted := s.insnCompleted + 1
      w := { s.w with hasInstruction := false }
      status := .halted
      clock := s.clock + 1
      stage := .writeback } := by
  have hw := holdsHalt_of_step_halted hrun h ht
  have hev := evaluatesCycle_of_step_halted hrun h ht
  exact ⟨hw, Host.Outcome.next.inj (h.symm.trans (haltStopsBeforeTheOtherStages s hev hw))⟩

/-- A step that leaves the core running has found no HALT in Writeback. -/
theorem not_holdsHalt_of_step_running (h : step s = .next t) (ht : t.status = .running) :
    ¬s.w.holdsHalt := by
  intro hw
  have hev := evaluatesCycle_of_step_running h ht
  cases h.symm.trans (haltStopsBeforeTheOtherStages s hev hw)
  cases ht

/-- Empty latches, and instructions without a destination, write no register. -/
theorem State.not_hasWriter {r : Reg} (he : s.e.dest = none) (hm : s.m.dest = none)
    (hw : s.w.dest = none) : ¬s.HasWriter r := by
  simp [State.HasWriter, he, hm, hw]

/-- Under either scoreboard a register without a writer in flight is ready. -/
theorem ready_of_no_writer (hcounts : CountsWriters s) (hinvalid : InvalidHasWriter s) {r : Reg}
    (hno : ¬s.HasWriter r) : s.scoreboard.ready r = true := by
  cases hk : s.scoreboard.kind with
  | flag =>
    exact Bool.eq_true_of_not_eq_false fun hr =>
      hno ((invalidHasWriter_iff s).mp hinvalid hk r hr)
  | counter =>
    have hnone : s.inFlight r = 0 := by
      have hpos := s.inFlight_pos_iff r
      exact Nat.eq_zero_of_not_pos fun h => hno (hpos.mp h)
    rw [Scoreboard.ready_iff_pending hk, (countsWriters_iff s).mp hcounts hk r, hnone]

end Halting

/-- Settles O49: behind the HALT in Writeback every latch is empty, and the HALT writes nothing. -/
theorem haltLeavesEveryRegisterValid : Obligations.HaltLeavesEveryRegisterValid := by
  rintro s t ⟨-, -, -, hhalt⟩ hcounts hinvalid hrun h ht
  obtain ⟨hw, rfl⟩ := step_halted_eq hrun h ht
  obtain ⟨-, hd, he, hm⟩ := hhalt hw
  exact ⟨fun r => ready_of_no_writer hcounts hinvalid (State.not_hasWriter
    (Latch.dest_of_dead he) (Latch.dest_of_dead hm) (Latch.dest_of_holds hw)), hd, he, hm, rfl⟩

section Stalls

/-! ### Stalls (R287) -/

variable {s t : State}

theorem State.exists_unready_of_not_sourcesReady {a b : Option Reg} (h : ¬s.SourcesReady a b) :
    ∃ r, s.scoreboard.ready r = false := by
  by_contra hall
  exact h (State.sourcesReady_of_forall fun r _ =>
    Bool.eq_true_of_not_eq_false fun hr => hall ⟨r, hr⟩)

/-- Decode stalls on a register that is not ready, and a stall leaves the scoreboard alone. -/
theorem decodeStage_stalled_unready (hs : s.stage = .decode) (h : decodeStage s = .next t)
    (hrun : t.status = .running) (hc : ControlAfterExecute s) (hst : t.dIsStalled = true) :
    ∃ r, t.scoreboard.ready r = false := by
  rcases decodeStage_cases hs h with ⟨hd, e⟩ | ⟨p, -, -, rfl⟩ | ⟨i, -, rfl⟩
  · subst t
    exact absurd (hd.symm.trans (hc.stalled_live hst)) nofun
  · cases hrun
  · rcases s.decodeWith_cases i.src1 i.src2 i.dest with ⟨-, e⟩ | ⟨hn, e⟩ <;> rw [e] at hst ⊢
    · cases hst
    · exact State.exists_unready_of_not_sourcesReady hn

theorem step_stalled_unready (hc : ControlBits s) (h : step s = .next t)
    (hrun : t.status = .running) (hst : t.dIsStalled = true) :
    ∃ r, t.scoreboard.ready r = false := by
  obtain ⟨s1, s2, s3, s4, s5, c⟩ := wholeCycle_of_step h hrun
  rw [c.scoreboard_eq]
  exact decodeStage_stalled_unready (s := { s3 with stage := .decode }) rfl c.decode
    c.decode_running ((c.control_after_execute hc).withStage _)
    ((c.dIsStalled_eq hc).symm.trans hst)

/-- A stalled Decode has issued nothing into Execute. -/
theorem ControlBits.e_dead_of_stalled (hc : ControlBits s) (hst : s.dIsStalled = true) :
    s.e.hasInstruction = false := by
  obtain ⟨-, -, -, -, he⟩ := hc
  exact Bool.eq_false_of_not_eq_true fun hl => absurd ((he hl).1.symm.trans hst) nofun

theorem step_w_live (h : step s = .next t) (hrun : t.status = .running) :
    t.w.hasInstruction = s.m.hasInstruction := by
  obtain ⟨s1, s2, s3, s4, s5, c⟩ := wholeCycle_of_step h hrun
  exact Latch.hasInstruction_of_withoutValues c.w_moved

theorem step_m_live (h : step s = .next t) (hrun : t.status = .running) :
    t.m.hasInstruction = s.e.hasInstruction := by
  obtain ⟨s1, s2, s3, s4, s5, c⟩ := wholeCycle_of_step h hrun
  exact Latch.hasInstruction_of_withoutValues c.m_moved

end Stalls

/-- Settles O50: three stalls in a row leave Execute, Memory and Writeback empty, so that no writer
is in flight; but Decode stalls only on a register that is not ready, which has one. -/
theorem stallsLastAtMostTwoCycles : Obligations.StallsLastAtMostTwoCycles := by
  intro s t1 t2 t3 hc hcounts hinvalid h1 h2 h3 r3
  have r2 : t2.status = .running := (evaluatesCycle_of_step_running h3 r3).1
  have c1 := stepKeepsControlBits s t1 hc h1
  have c2 := stepKeepsControlBits t1 t2 c1 h2
  have c3 := stepKeepsControlBits t2 t3 c2 h3
  have counts := stepKeepsWriterCounts t2 t3
    (stepKeepsWriterCounts t1 t2 (stepKeepsWriterCounts s t1 hcounts h1) h2) h3
  have invalid := stepKeepsInvalidHasWriter t2 t3
    (stepKeepsInvalidHasWriter t1 t2 (stepKeepsInvalidHasWriter s t1 hinvalid h1) h2) h3
  by_contra hall
  simp only [not_or, Bool.not_eq_false] at hall
  obtain ⟨st1, st2, st3⟩ := hall
  obtain ⟨r, hr⟩ := step_stalled_unready c2 h3 r3 st3
  have he : t3.e.hasInstruction = false := c3.e_dead_of_stalled st3
  have hm : t3.m.hasInstruction = false := (step_m_live h3 r3).trans (c2.e_dead_of_stalled st2)
  have hw : t3.w.hasInstruction = false :=
    (step_w_live h3 r3).trans ((step_m_live h2 r2).trans (c1.e_dead_of_stalled st1))
  have hno : ¬t3.HasWriter r := State.not_hasWriter (Latch.dest_of_dead he)
    (Latch.dest_of_dead hm) (Latch.dest_of_dead hw)
  exact absurd (hr.symm.trans (ready_of_no_writer counts invalid hno)) nofun

section Budget

/-! ### The end of a run (R103, R288, R289) -/

variable {s t u : State}

/-- A run is its first step and the run from there. -/
theorem runSteps_of_step {k : Nat} (h : step s = .next u) :
    runSteps (k + 1) s = runSteps k u := by
  have hcore : Host.Core.step Sys2Proof.core s = .next u := h
  simp only [runSteps, Host.Core.run, hcore]
  rfl

theorem runSteps_of_final {k : Nat} (hs : Final s) : runSteps k s = .next s := by
  induction k with
  | zero => rfl
  | succ k ih => rw [runSteps_of_step ((finalStatesAndBudgetStop s).1 hs), ih]

/-- A run of one step more than the budget has left is final: each of its steps counts a cycle,
stops at the budget or has found the core stopped. -/
theorem runSteps_ends {n : Nat} (hd : DecodedPastDecode s) (hb : CountersBounded s)
    (hn : s.cfg.maxCycles - s.clock ≤ n) : ∃ t, runSteps (n + 1) s = .next t ∧ Final t := by
  induction n generalizing s with
  | zero =>
    obtain ⟨t, ht⟩ := stepsNeverEndOutsideTheSpec s hd
    refine ⟨t, runSteps_of_step ht, ?_⟩
    rcases step_cases ht with ⟨hfinal, rfl⟩ | ⟨-, -, rfl⟩ | ⟨⟨-, hleft⟩, -⟩
    · exact hfinal
    · exact nofun
    · exact absurd (le_antisymm hb.2 (Nat.sub_eq_zero_iff_le.mp (Nat.le_zero.mp hn))) hleft
  | succ n ih =>
    obtain ⟨t, ht⟩ := stepsNeverEndOutsideTheSpec s hd
    rw [runSteps_of_step ht]
    rcases step_cases ht with ⟨hfinal, rfl⟩ | ⟨-, -, rfl⟩ | ⟨hev, -⟩
    · exact ⟨t, runSteps_of_final hfinal, hfinal⟩
    · exact ⟨_, runSteps_of_final nofun, nofun⟩
    · have hclock := (cyclesAndRetirementsAreCounted s t hev ht).1
      have hcfg := (storeAndConfigurationNeverChange s t ht).2
      refine ih (stepKeepsDecodedPastDecode s t hd ht) (step_keeps_countersBounded hb ht) ?_
      rw [hclock, hcfg]
      omega

theorem final_iff (s : State) : Final s ↔
    s.status = .halted ∨ s.status = .budgetExhausted ∨ ∃ k info, s.status = .faulted k info := by
  rw [Final]
  cases s.status <;> simp

end Budget

/-- Settles O48: a step keeps the counters' bounds and the configuration, and one step more than the
budget has left is enough to end. -/
theorem everyRunEndsWithinTheBudget : Obligations.EveryRunEndsWithinTheBudget := by
  intro s hd hb
  obtain ⟨t, ht, hfinal⟩ := runSteps_ends hd hb le_rfl
  have hbounded : CountersBounded t :=
    runSteps_keeps (fun _ _ hu h => step_keeps_countersBounded hu h) hb ht
  have hcfg : t.cfg = s.cfg :=
    runSteps_keeps (P := fun u => u.cfg = s.cfg)
      (fun u v hu h => (storeAndConfigurationNeverChange u v h).2.trans hu) rfl ht
  exact ⟨t, ht, hcfg ▸ hbounded.2, hbounded, (final_iff t).mp hfinal⟩

section FetchPath

/-! ### Fetch runs on until the HALT (R107)

A running core fetches in every cycle but a stall's, a taken branch's and those after a HALT was
forwarded, which is then in flight. -/

variable {s s1 s2 s3 s4 s5 t : State}

/-- In a running core fetching is disabled only by a HALT in flight, and the instruction behind a
live Execute latch is in Decode unless fetching is disabled. -/
structure FetchesUpToHalt (s : State) : Prop where
  halt_ahead : FetchDisabled s →
    s.d.holdsHalt ∨ s.e.holdsHalt ∨ s.m.holdsHalt ∨ s.w.holdsHalt
  behind_execute : s.e.hasInstruction = true → s.d.hasInstruction = true ∨ FetchDisabled s

/-- Decode moves its latch on or keeps it; a HALT, which has no source, moves on (R89). -/
theorem decodeStage_moved_or_kept (hs : s.stage = .decode) (h : decodeStage s = .next t)
    (he : s.e.hasInstruction = false) :
    (t.e.withoutValues = s.d.withoutValues ∧ t.d.hasInstruction = false) ∨
    (t.d = s.d ∧ t.e.hasInstruction = false ∧ ¬s.d.holdsHalt) := by
  rcases decodeStage_moves hs h with ⟨hmoved, hdead, -⟩ | ⟨hd, he', -⟩
  · exact .inl ⟨hmoved, hdead⟩
  · refine .inr ⟨hd, he' ▸ he, fun hh => ?_⟩
    cases h.symm.trans (decodeStage_issues hs hh ⟨rfl, rfl⟩)
    exact absurd ((congrArg Latch.hasInstruction hd).trans hh.1) nofun

/-- Fetch without a pending redirect: Decode stalls and keeps its latch; Fetch forwards, and
disables itself with a HALT alone; or it is disabled. -/
theorem fetchStage_fills_decode (hs : s.stage = .fetch) (h : fetchStage s = .next t)
    (hr : s.redirect = false) (hc : ControlAfterDecode s) :
    (s.dIsStalled = true ∧ t.d = s.d ∧ (FetchDisabled t → FetchDisabled s)) ∨
    (s.dIsStalled = false ∧ ¬FetchDisabled s ∧ t.d.hasInstruction = true ∧
      (FetchDisabled t → t.d.holdsHalt)) ∨
    (s.dIsStalled = false ∧ FetchDisabled s ∧ FetchDisabled t ∧ t.d = s.d) := by
  have hst := hc.stalls_agree
  rcases fetchStage_cases hs h with ⟨hr', -⟩ | ⟨-, -, hf', rfl⟩ | ⟨-, hf, hf', rfl⟩ |
    ⟨-, -, hf', hh, rfl⟩ | ⟨-, hf, hidle, e⟩
  · exact absurd (hr.symm.trans hr') nofun
  · exact .inl ⟨hst.symm.trans hf', rfl, fun hd => nomatch hd.2⟩
  · have hlive := (s.loadedLatch_hasInstruction s.pc).trans hf
    refine .inr (.inl ⟨hst.symm.trans hf', fun hd => absurd (hd.1.symm.trans hf) nofun, ?_⟩)
    split
    · next hi => exact ⟨hlive, fun _ => ⟨hlive, hi⟩⟩
    · exact ⟨hlive, fun hd => absurd (hd.1.symm.trans hlive) nofun⟩
  · refine .inr (.inl ⟨hst.symm.trans hf', fun hd => absurd (hd.2.symm.trans hh) nofun, ?_⟩)
    split
    · next hi => exact ⟨rfl, fun _ => ⟨rfl, hi⟩⟩
    · exact ⟨rfl, fun hd => nomatch hd.1⟩
  · subst t
    cases hds : s.dIsStalled with
    | true => exact .inl ⟨rfl, rfl, id⟩
    | false =>
      have hheld : s.fHeld = false :=
        hidle.resolve_left fun h => absurd (h.symm.trans (hst.trans hds)) nofun
      exact .inr (.inr ⟨rfl, ⟨hf, hheld⟩, ⟨hf, hheld⟩, rfl⟩)

end FetchPath

section Accounting

/-! ### What a cycle does to the pipeline (R287)

A cycle fetches one instruction, but for a stall, which fetches none, a taken branch, which fetches
none and flushes one, and a cycle after the HALT was forwarded. So the clock is the number of
instructions retired or in flight, plus the cycles since that HALT, the stalls and twice the taken
branches. -/

variable {s s1 s2 s3 s4 s5 t : State}

/-- Whether the latch is live, as a count. -/
def Latch.live (l : Latch) : Nat := if l.hasInstruction then 1 else 0

/-- Whether the latch holds a HALT, as a count. -/
def Latch.halts (l : Latch) : Nat := if l.holdsHalt then 1 else 0

theorem Latch.live_of_live {l : Latch} (h : l.hasInstruction = true) : l.live = 1 := if_pos h

theorem Latch.live_of_dead {l : Latch} (h : l.hasInstruction = false) : l.live = 0 := by
  simp [Latch.live, h]

theorem Latch.halts_of_holdsHalt {l : Latch} (h : l.holdsHalt) : l.halts = 1 := if_pos h

theorem Latch.halts_of_not {l : Latch} (h : ¬l.holdsHalt) : l.halts = 0 := if_neg h

theorem Latch.halts_of_dead {l : Latch} (h : l.hasInstruction = false) : l.halts = 0 :=
  halts_of_not (not_holds_of_dead h)

theorem Latch.live_of_withoutValues {l l' : Latch} (h : l'.withoutValues = l.withoutValues) :
    l'.live = l.live := by
  rw [Latch.live, hasInstruction_of_withoutValues h, ← Latch.live]

theorem Latch.halts_of_withoutValues {l l' : Latch} (h : l'.withoutValues = l.withoutValues) :
    l'.halts = l.halts := by
  change l'.withoutValues.halts = l.withoutValues.halts
  rw [h]

/-- The cycles a running state accounts for: one for each instruction retired or in flight past
Fetch, and those since a HALT in flight was forwarded, by the latch it is in. -/
def State.accounted (s : State) : Nat :=
  s.insnCompleted + (s.d.live + s.e.live + s.m.live + s.w.live) +
    (s.e.halts + 2 * s.m.halts + 3 * s.w.halts)

/-- Among Decode, Execute and Memory is one HALT if fetching is disabled, and none if not. -/
theorem halts_in_flight (hi : NothingBehindHalt s) (hp : FetchesUpToHalt s)
    (hw : ¬s.w.holdsHalt) :
    s.d.halts + s.e.halts + s.m.halts = if FetchDisabled s then 1 else 0 := by
  by_cases hd : FetchDisabled s
  · obtain ⟨-, he, hm, -⟩ := hi
    rw [if_pos hd]
    rcases hp.halt_ahead hd with hh | hh | hh | hh
    · have hne : ¬s.e.holdsHalt := fun h => absurd ((he h).2.symm.trans hh.1) nofun
      have hnm : ¬s.m.holdsHalt := fun h => absurd ((hm h).2.1.symm.trans hh.1) nofun
      rw [Latch.halts_of_holdsHalt hh, Latch.halts_of_not hne, Latch.halts_of_not hnm]
    · have hnm : ¬s.m.holdsHalt := fun h => absurd ((hm h).2.2.symm.trans hh.1) nofun
      rw [Latch.halts_of_dead (he hh).2, Latch.halts_of_holdsHalt hh, Latch.halts_of_not hnm]
    · obtain ⟨-, hdd, hed⟩ := hm hh
      rw [Latch.halts_of_dead hdd, Latch.halts_of_dead hed, Latch.halts_of_holdsHalt hh]
    · exact absurd hh hw
  · obtain ⟨nd, ne, nm, -⟩ := hi.no_halt hd
    rw [if_neg hd, Latch.halts_of_not nd, Latch.halts_of_not ne, Latch.halts_of_not nm]

/-- Decode moves its instruction on or keeps it, and moves a HALT on. -/
theorem decodeStage_counts (hs : s.stage = .decode) (h : decodeStage s = .next t)
    (he : s.e.hasInstruction = false) :
    t.e.live + t.d.live = s.d.live ∧ t.e.halts = s.d.halts := by
  rcases decodeStage_moved_or_kept hs h he with ⟨hmoved, hdead⟩ | ⟨hd, hdead, hn⟩
  · rw [Latch.live_of_withoutValues hmoved, Latch.live_of_dead hdead,
      Latch.halts_of_withoutValues hmoved]
    exact ⟨rfl, rfl⟩
  · rw [hd, Latch.live_of_dead hdead, Latch.halts_of_dead hdead, Latch.halts_of_not hn]
    exact ⟨Nat.zero_add _, rfl⟩

/-- Fetch fills Decode, but for a stall and after a HALT. -/
theorem fetchStage_counts (hs : s.stage = .fetch) (h : fetchStage s = .next t)
    (hr : s.redirect = false) (hc : ControlAfterDecode s)
    (hd : FetchDisabled s → s.dIsStalled = false) :
    t.d.live + (if s.dIsStalled then 1 else 0) + (if FetchDisabled s then 1 else 0) =
      s.d.live + 1 := by
  have hlive := hc.live_iff_stalled
  rcases fetchStage_fills_decode hs h hr hc with ⟨hst, htd, -⟩ | ⟨hst, hen, htd, -⟩ |
    ⟨hst, hdis, -, htd⟩
  · have hen : ¬FetchDisabled s := fun hf => absurd ((hd hf).symm.trans hst) nofun
    rw [htd, hst, if_neg hen]
    rfl
  · rw [Latch.live_of_live htd, Latch.live_of_dead (hlive.trans hst), hst, if_neg hen]
    rfl
  · rw [htd, hst, if_pos hdis]
    rfl

/-- What a cycle without a taken branch leaves alone up to Fetch. -/
theorem WholeCycle.untaken (c : WholeCycle s s1 s2 s3 s4 s5 t) (hc : ControlBits s)
    (hb : ¬s.e.TakesBranch s) :
    s3.redirect = false ∧ s3.d = s.d ∧ s4.redirect = false ∧
      (FetchDisabled s4 ↔ FetchDisabled s) := by
  obtain ⟨-, -, -, hred, -⟩ := c.controlBits_after_memory hc
  have hb2 : ¬s2.e.TakesBranch s2 :=
    fun h => hb ((takesBranch_after_memory c.writeback c.memory).mp h)
  obtain ⟨-, d2, f2, -, -⟩ := latches_after_memory c.writeback c.memory
  obtain ⟨-, r3, d3, f3⟩ := executeStage_of_not_takesBranch rfl c.execute hb2
  have held : s4.fHeld = s.fHeld := by
    have h1 : s1.fHeld = s.fHeld := by rw [writebackStage_frame rfl c.writeback]
    have h2 : s2.fHeld = s1.fHeld := by rw [memoryStage_frame rfl c.memory]
    have h3 : s3.fHeld = s2.fHeld := by rw [executeStage_frame rfl c.execute]
    have h4 : s4.fHeld = s3.fHeld := by rw [decodeStage_frame rfl c.decode]
    rw [h4, h3, h2, h1]
  have f4 : s4.f = s.f := (f_after_decode c.decode).trans (f3.trans f2)
  have r4 : s4.redirect = s3.redirect := by rw [decodeStage_frame rfl c.decode]
  refine ⟨r3.trans hred, d3.trans d2, r4.trans (r3.trans hred), ?_⟩
  rw [FetchDisabled, f4, held]

/-- A taken branch empties Decode and Execute and enables Fetch (R118, R104). -/
theorem WholeCycle.taken (c : WholeCycle s s1 s2 s3 s4 s5 t) (hb : s.e.TakesBranch s) :
    s3.redirect = true ∧ t.d.hasInstruction = false ∧ t.e.hasInstruction = false ∧
      t.f.hasInstruction = true ∧ t.dIsStalled = s.dIsStalled := by
  obtain ⟨h1, -, h2, -, h3, -, h4, -, h5, rfl⟩ := c
  have hb2 := (takesBranch_after_memory h1 h2).mpr hb
  have hst : s2.dIsStalled = s.dIsStalled := by
    rw [memoryStage_frame rfl h2, writebackStage_frame rfl h1]
  cases h3.symm.trans (executeStage_of_takesBranch (s := { s2 with stage := .execute }) rfl hb2)
  cases h4.symm.trans (decodeStage_of_dead rfl)
  cases h5.symm.trans (fetchStage_of_redirect rfl)
  exact ⟨rfl, rfl, rfl, rfl, hst⟩

theorem WholeCycle.keeps_fetchesUpToHalt (c : WholeCycle s s1 s2 s3 s4 s5 t) (hc : ControlBits s)
    (hp : FetchesUpToHalt s) (hw : ¬s.w.holdsHalt) : FetchesUpToHalt t := by
  by_cases hb : s.e.TakesBranch s
  · obtain ⟨-, -, he, hf, -⟩ := c.taken hb
    exact ⟨fun hd => absurd (hd.1.symm.trans hf) nofun,
      fun hl => absurd (he.symm.trans hl) nofun⟩
  · obtain ⟨-, hd3, hr4, hdis⟩ := c.untaken hc hb
    have c4 := c.control_after_decode hc
    have c3 := c.control_after_execute hc
    have hdec := decodeStage_moved_or_kept (s := { s3 with stage := .decode }) rfl c.decode
      c3.execute_dead
    have hfet := fetchStage_fills_decode (s := { s4 with stage := .fetch }) rfl c.fetch hr4
      (c4.withStage _)
    have ahead (hf : FetchDisabled s) :
        t.d.holdsHalt ∨ t.e.holdsHalt ∨ t.m.holdsHalt ∨ t.w.holdsHalt := by
      rcases hp.halt_ahead hf with hh | hh | hh | hh
      · rw [← hd3] at hh
        rcases hdec with ⟨hmoved, -⟩ | ⟨-, -, hn⟩
        · rw [c.e_eq]
          exact .inr (.inl (Latch.holds_of_withoutValues hmoved.symm hh))
        · exact absurd hh hn
      · exact .inr (.inr (.inl (Latch.holds_of_withoutValues c.m_moved.symm hh)))
      · exact .inr (.inr (.inr (Latch.holds_of_withoutValues c.w_moved.symm hh)))
      · exact absurd hh hw
    have same : FetchDisabled t ↔ FetchDisabled s5 := by rw [c.closed]; rfl
    have td : t.d = s5.d := by rw [c.closed]; rfl
    constructor
    · intro hf
      rcases hfet with ⟨-, -, hs⟩ | ⟨-, -, -, hh⟩ | ⟨-, hs, -⟩
      · exact ahead (hdis.mp (hs (same.mp hf)))
      · exact .inl (td ▸ hh (same.mp hf))
      · exact ahead (hdis.mp hs)
    · intro hl
      rw [c.e_eq] at hl
      rcases hfet with ⟨hst, -⟩ | ⟨-, -, hlive, -⟩ | ⟨-, -, hf, -⟩
      · exact absurd ((c4.issued hl).symm.trans (c4.live_iff_stalled.trans hst)) nofun
      · exact .inl (td ▸ hlive)
      · exact .inr (same.mpr hf)

/-- Decode does not stall behind a forwarded HALT. -/
theorem WholeCycle.not_stalled_of_fetchDisabled (c : WholeCycle s s1 s2 s3 s4 s5 t)
    (hc : ControlBits s) (hi : NothingBehindHalt s) (hp : FetchesUpToHalt s)
    (hw : ¬s.w.holdsHalt) (hb : ¬s.e.TakesBranch s) (hf : FetchDisabled s4) :
    s4.dIsStalled = false := by
  obtain ⟨-, hd3, -, hdis⟩ := c.untaken hc hb
  have hdec := decodeStage_moved_or_kept (s := { s3 with stage := .decode }) rfl c.decode
    (c.control_after_execute hc).execute_dead
  rw [← (c.control_after_decode hc).live_iff_stalled]
  rcases hdec with ⟨-, hdead⟩ | ⟨hd4, -, hn⟩
  · exact hdead
  · have hd : s4.d = s.d := hd4.trans hd3
    obtain ⟨-, he, hm, -⟩ := hi
    rw [hd]
    rcases hp.halt_ahead (hdis.mp hf) with hh | hh | hh | hh
    · exact absurd (hd3 ▸ hh) hn
    · exact (he hh).2
    · exact (hm hh).2.1
    · exact absurd hh hw

/-- A cycle without a taken branch fills Decode as it empties it, unless Decode stalls or a HALT in
flight moves one stage on. -/
theorem WholeCycle.counts_of_untaken (c : WholeCycle s s1 s2 s3 s4 s5 t)
    (hc : ControlBits s) (hi : NothingBehindHalt s) (hp : FetchesUpToHalt s)
    (hw : ¬s.w.holdsHalt) (hb : ¬s.e.TakesBranch s) :
    t.d.live + t.e.live + t.e.halts + s.e.halts + s.m.halts + (if t.dIsStalled then 1 else 0) =
      s.d.live + 1 := by
  obtain ⟨-, hd3, hr4, hdis⟩ := c.untaken hc hb
  obtain ⟨hlive, hhalts⟩ := decodeStage_counts (s := { s3 with stage := .decode }) rfl c.decode
    (c.control_after_execute hc).execute_dead
  have hfet := fetchStage_counts (s := { s4 with stage := .fetch }) rfl c.fetch hr4
    ((c.control_after_decode hc).withStage _) (c.not_stalled_of_fetchDisabled hc hi hp hw hb)
  have hflight := halts_in_flight hi hp hw
  have td : t.d = s5.d := by rw [c.closed]; rfl
  rw [td, c.e_eq, c.dIsStalled_eq hc]
  simp only [hdis, hd3] at hfet hlive hhalts
  omega

/-- A taken branch flushes the instruction behind it. -/
theorem WholeCycle.counts_of_taken (c : WholeCycle s s1 s2 s3 s4 s5 t)
    (hc : ControlBits s) (hi : NothingBehindHalt s) (hp : FetchesUpToHalt s)
    (hw : ¬s.w.holdsHalt) (hb : s.e.TakesBranch s) :
    t.d.live + t.e.live + t.e.halts + s.e.halts + s.m.halts + (if t.dIsStalled then 1 else 0) + 2 =
      s.d.live + 1 := by
  obtain ⟨-, htd, hte, -, hst⟩ := c.taken hb
  obtain ⟨-, -, -, -, hbits⟩ := hc
  obtain ⟨hds, -⟩ := hbits hb.live
  obtain ⟨-, -, hmem, -⟩ := hi
  have hm : ¬s.m.holdsHalt := fun hh => absurd ((hmem hh).2.2.symm.trans hb.live) nofun
  have hd : s.d.hasInstruction = true := by
    rcases hp.behind_execute hb.live with hd | hf
    · exact hd
    · rcases hp.halt_ahead hf with hh | hh | hh | hh
      · exact hh.1
      · exact absurd hh hb.not_halt
      · exact absurd hh hm
      · exact absurd hh hw
  rw [Latch.live_of_dead htd, Latch.live_of_dead hte, Latch.halts_of_dead hte,
    Latch.halts_of_not hb.not_halt, Latch.halts_of_not hm, hst, hds, Latch.live_of_live hd]
  rfl

/-- Whether a cycle redirects shows after Execute, or after the stage that stopped the core. -/
theorem redirectsIn_of_evaluates (hev : EvaluatesCycle s)
    (h : thenStage (thenStage (writebackStage { s with stage := .writeback }) .memory memoryStage)
      .execute executeStage = .next t) : redirectsIn s = t.redirect := by
  simp only [redirectsIn, h, decide_eq_true hev, Bool.true_and]

theorem redirectsIn_of_wholeCycle (c : WholeCycle s s1 s2 s3 s4 s5 t) (hev : EvaluatesCycle s) :
    redirectsIn s = s3.redirect := by
  refine redirectsIn_of_evaluates hev ?_
  rw [c.writeback, thenStage_running _ _ c.writeback_running, c.memory,
    thenStage_running _ _ c.memory_running, c.execute]

theorem stallsIn_of_step (hev : EvaluatesCycle s) (h : step s = .next t) :
    stallsIn s = t.dIsStalled := by
  simp only [stallsIn, h, decide_eq_true hev, Bool.true_and]

end Accounting

section CycleCount

/-! ### The cycles of a run that halts (R287) -/

variable {s t u : State}

/-- What the account of cycles rests on, in a running state. -/
structure Accountable (s : State) : Prop where
  control : ControlBits s
  halts : NothingBehindHalt s
  fetches : FetchesUpToHalt s

theorem Accountable.after_step (hs : Accountable s) (h : step s = .next t)
    (ht : t.status = .running) : Accountable t := by
  obtain ⟨hc, hi, hp⟩ := hs
  obtain ⟨s1, s2, s3, s4, s5, c⟩ := wholeCycle_of_step h ht
  exact ⟨stepKeepsControlBits s t hc h, stepKeepsNothingBehindHalt s t hc hi h,
    c.keeps_fetchesUpToHalt hc hp (not_holdsHalt_of_step_running h ht)⟩

/-- A cycle accounts for itself, less a stall and twice a taken branch. -/
theorem Accountable.accounted_step (hs : Accountable s) (h : step s = .next t)
    (ht : t.status = .running) :
    t.accounted + (if stallsIn s then 1 else 0) + 2 * (if redirectsIn s then 1 else 0) =
      s.accounted + 1 := by
  obtain ⟨hc, hi, hp⟩ := hs
  have hev := evaluatesCycle_of_step_running h ht
  have hw := not_holdsHalt_of_step_running h ht
  obtain ⟨s1, s2, s3, s4, s5, c⟩ := wholeCycle_of_step h ht
  have hinsn : t.insnCompleted = s.insnCompleted + s.w.live :=
    (cyclesAndRetirementsAreCounted s t hev h).2
  have hcounts : t.d.live + t.e.live + t.e.halts + s.e.halts + s.m.halts +
      (if t.dIsStalled then 1 else 0) + 2 * (if s3.redirect then 1 else 0) = s.d.live + 1 := by
    by_cases hb : s.e.TakesBranch s
    · obtain ⟨hred, -⟩ := c.taken hb
      rw [hred]
      exact c.counts_of_taken hc hi hp hw hb
    · obtain ⟨hred, -⟩ := c.untaken hc hb
      rw [hred]
      exact c.counts_of_untaken hc hi hp hw hb
  rw [stallsIn_of_step hev h, redirectsIn_of_wholeCycle c hev, State.accounted, State.accounted,
    hinsn, Latch.live_of_withoutValues c.m_moved, Latch.live_of_withoutValues c.w_moved,
    Latch.halts_of_withoutValues c.m_moved, Latch.halts_of_withoutValues c.w_moved,
    Latch.halts_of_not hw]
  omega

/-- A HALT in Writeback, with nothing behind it, accounts for itself and the three cycles since it
was forwarded. -/
theorem NothingBehindHalt.accounted (hi : NothingBehindHalt s) (hw : s.w.holdsHalt) :
    s.accounted = s.insnCompleted + 4 := by
  obtain ⟨-, -, -, hhalt⟩ := hi
  obtain ⟨-, hd, he, hm⟩ := hhalt hw
  rw [State.accounted, Latch.live_of_dead hd, Latch.live_of_dead he, Latch.live_of_dead hm,
    Latch.live_of_live hw.1, Latch.halts_of_dead he, Latch.halts_of_dead hm,
    Latch.halts_of_holdsHalt hw]

/-- The halting cycle neither stalls nor takes a branch. -/
theorem Accountable.no_event_of_halt (hs : Accountable s) (hrun : s.status = .running)
    (h : step s = .next t) (ht : t.status = .halted) :
    stallsIn s = false ∧ redirectsIn s = false := by
  obtain ⟨⟨-, hlive, -, hred, -⟩, ⟨-, -, -, hhalt⟩, -⟩ := hs
  have hev := evaluatesCycle_of_step_halted hrun h ht
  obtain ⟨hw, rfl⟩ := step_halted_eq hrun h ht
  obtain ⟨-, hd, -⟩ := hhalt hw
  constructor
  · rw [stallsIn_of_step hev h]
    exact Bool.eq_false_of_not_eq_true fun hst => absurd (hd.symm.trans (hlive hst)) nofun
  · obtain ⟨u, hwb, hstop, hu⟩ : ∃ u, writebackStage { s with stage := .writeback } = .next u ∧
        u.status ≠ .running ∧ u.redirect = s.redirect :=
      ⟨_, (writebackStage_of_holds (s := { s with stage := .writeback }) hw).trans
        (exec_writeback .halt _ rfl), nofun, rfl⟩
    rw [redirectsIn_of_evaluates (t := u) hev, hu, hred]
    rw [hwb, thenStage_stopped _ _ hstop, thenStage_stopped _ _ hstop]

theorem countSteps_of_step {event : State → Bool} {k : Nat} (h : step s = .next u) :
    countSteps event (k + 1) s = (if event s then 1 else 0) + countSteps event k u := by
  simp only [countSteps, h]

/-- Nothing happens in the steps of a final state. -/
theorem countSteps_of_final {event : State → Bool} (k : Nat) (hs : Final s)
    (hev : event s = false) : countSteps event k s = 0 := by
  induction k with
  | zero => rfl
  | succ k ih =>
    rw [countSteps_of_step ((finalStatesAndBudgetStop s).1 hs), ih, hev]
    rfl

theorem no_event_of_final (hs : Final s) : stallsIn s = false ∧ redirectsIn s = false := by
  have hev : decide (EvaluatesCycle s) = false := decide_eq_false fun h => hs h.1
  constructor
  · rw [stallsIn, (finalStatesAndBudgetStop s).1 hs]
    simp only [hev, Bool.false_and]
  · unfold redirectsIn
    dsimp only
    split <;> simp [hev]

/-- From a running state on, a run to the HALT takes a cycle for each instruction not yet accounted
for, and for the stalls and twice the taken branches on its way. -/
theorem Accountable.cycles_to_halt {k : Nat} (hs : Accountable s) (hrun : s.status = .running)
    (h : runSteps k s = .next t) (ht : t.status = .halted) :
    t.clock + s.accounted = s.clock + t.insnCompleted + 4 + countSteps stallsIn k s +
      2 * countSteps redirectsIn k s := by
  induction k generalizing s with
  | zero =>
    cases h
    exact absurd (hrun.symm.trans ht) nofun
  | succ k ih =>
    obtain ⟨u, hu, hrest⟩ := runSteps_succ h
    rw [countSteps_of_step hu, countSteps_of_step hu]
    by_cases hur : u.status = .running
    · have hclock := (cyclesAndRetirementsAreCounted s u (evaluatesCycle_of_step_running hu hur)
        hu).1
      have hacc := hs.accounted_step hu hur
      have hih := ih (hs.after_step hu hur) hur hrest
      omega
    · obtain rfl : u = t := Host.Outcome.next.inj ((runSteps_of_final hur).symm.trans hrest)
      obtain ⟨hst, hbr⟩ := hs.no_event_of_halt hrun hu ht
      obtain ⟨hst', hbr'⟩ := no_event_of_final hur
      obtain ⟨hw, hu'⟩ := step_halted_eq hrun hu ht
      have hclock : u.clock = s.clock + 1 := congrArg State.clock hu'
      have hinsn : u.insnCompleted = s.insnCompleted + 1 := congrArg State.insnCompleted hu'
      rw [hst, hbr, countSteps_of_final k hur hst', countSteps_of_final k hur hbr',
        hs.halts.accounted hw, hclock, hinsn]
      simp only [Bool.false_eq_true, if_false]
      omega

/-- At construction Fetch is enabled and nothing is in flight. -/
theorem accountable_init (cfg : Config) (program : List Record) :
    Accountable (State.init cfg program) := by
  obtain ⟨hc, -, hi, -⟩ := constructedStateMeetsTheInvariants cfg program
  exact ⟨hc, hi, ⟨fun hd => (nomatch hd.1), nofun⟩⟩

end CycleCount

/-- Settles O52: at construction the account and the clock are 0, and each cycle of the run keeps
their balance. -/
theorem haltedRunsTakeTheirCycles : Obligations.HaltedRunsTakeTheirCycles := by
  intro cfg program s t k hcons h ht
  obtain ⟨records, -, rfl⟩ := construct_ok hcons
  have hcycles := (accountable_init cfg records).cycles_to_halt rfl h ht
  have hacc : (State.init cfg records).accounted = 0 := rfl
  have hclock : (State.init cfg records).clock = 0 := rfl
  omega

end Sys2Proof.Machine
